-- ==== Sys2Proof/Word.lean ====
section
/-! DEFINITION. The bit-vector widths of the block (00_scope.md R8, R12: every value is unsigned). -/

namespace Sys2Proof

/-- One input byte (10_state.md R39). -/
abbrev Byte := BitVec 8

/-- The data of one host register access, `DATA_W` = 32 bits (00_scope.md R8). -/
abbrev Word := BitVec 32

/-- One host transaction word `HOSTACC`, 41 bits (30_encoding.md R104). -/
abbrev HostAcc := BitVec 41

/-- A sample rate in Hz, `RATE_W` = 24 bits (00_scope.md R8). -/
abbrev Rate := BitVec 24

end Sys2Proof
end

