-- ==== Sys2Proof/Config.lean ====
section
/-! DEFINITION. Parameters of the block (00_scope.md R8) and the one value the spec leaves open. -/

namespace Sys2Proof

/-- The widest read the Bit Reader accepts, `READ_MAX` (00_scope.md R8, 30_encoding.md R107). -/
def Config.readMax : Nat := 32

/-- The default of the open parameter `IBUF_BYTES` (00_scope.md R8). The parameter itself is
`State.ibufBytes` (log entry 5). -/
def Config.ibufBytesDefault : Nat := 8

/-- The least `IBUF_BYTES` (00_scope.md R8). -/
def Config.ibufBytesMin : Nat := 5

/-- The greatest `IBUF_BYTES` (00_scope.md R8). -/
def Config.ibufBytesMax : Nat := 56

/-- What the 6-bit cursor `POS` holds when a lone `READBITS` would advance it to a stream position
above 63. The spec states no value: no decode gets there (10_state.md R31, 41_config_decoder.md
R170). A FREE VALUE, DESIGN CHOICE, log entry 7: safe, since nothing can be proved of it. -/
opaque Config.posBeyond : Nat → BitVec 6

end Sys2Proof
end

