-- ==== Sys2Proof/Syntax.lean ====
section
/-! DEFINITION. The block's instructions: one constructor per row of spec/opcode_table.json, the
words of its eight formats, and the vocabulary of a decode's result. -/

namespace Sys2Proof

/-- `Code` is a word together with the format it stands in. The formats of the table share numbers:
which one applies is decided by where the word stands (the transaction bus, `STATE`, the field a
decoder state reads), never by its bits (30_encoding.md, opening; log entry 15). -/
inductive Code where
  /-- `RDREQ`: a Bit Reader request, the width `N` (30_encoding.md R107). -/
  | rdreq (n : BitVec 6)
  /-- `FSMSTATE`: a code of the register `STATE` (10_state.md R23). -/
  | fsmstate (st : BitVec 3)
  /-- `HOSTACC`: a host transaction word (30_encoding.md R104). -/
  | hostacc (w : HostAcc)
  /-- `AOT5`: the field `baseType` (30_encoding.md R94). -/
  | aot5 (v : BitVec 5)
  /-- `AOTEXT`: the field `ext` (30_encoding.md R95). -/
  | aotext (v : BitVec 6)
  /-- `SFI4`: the field `freqIdx` (30_encoding.md R96). -/
  | sfi4 (v : BitVec 4)
  /-- `SFIX`: the explicit rate (30_encoding.md R98). -/
  | sfix (v : Rate)
  /-- `CC4`: the field `chanCfg` (30_encoding.md R99). -/
  | cc4 (v : BitVec 4)
  deriving DecidableEq, Repr

/-- The instructions, one constructor per row of spec/opcode_table.json. A host row keeps every bit
of its transaction word as an operand, also the bits its meaning ignores (log entry 17). -/
inductive Instr where
  /-- `READBITS` (R140): read the next `n` bits. -/
  | readbits (n : BitVec 6)
  /-- `IDLE` (R165): the decoder agent has no enabled step. -/
  | idle
  /-- `S_AOT` (R160). -/
  | sAot
  /-- `S_AOT_EXT` (R161). -/
  | sAotExt
  /-- `S_SFI` (R162). -/
  | sSfi
  /-- `S_RATE` (R163). -/
  | sRate
  /-- `S_CC` (R164). -/
  | sCc
  /-- `START` (R201). -/
  | start (data : Word)
  /-- `WR_CTRL_NOP` (R202). -/
  | wrCtrlNop (data : Word)
  /-- `WR_ILEN` (R203). -/
  | wrIlen (data : Word)
  /-- `WR_IBUF` (R204): write byte `i`. -/
  | wrIbuf (i : BitVec 6) (data : Word)
  /-- `RD_STATUS` (R205). -/
  | rdStatus (data : Word)
  /-- `RD_ERRVAL` (R206). -/
  | rdErrval (data : Word)
  /-- `RD_RES_AOT` (R207). -/
  | rdResAot (data : Word)
  /-- `RD_RES_RATE` (R208). -/
  | rdResRate (data : Word)
  /-- `RD_RES_CH` (R209). -/
  | rdResCh (data : Word)
  /-- `RD_ILEN` (R210). -/
  | rdIlen (data : Word)
  /-- `RD_IBUF` (R211): read byte `i` back. -/
  | rdIbuf (i : BitVec 6) (data : Word)
  /-- `RD_CTRL` (R212). -/
  | rdCtrl (data : Word)
  /-- `RD_RESERVED` (R213). -/
  | rdReserved (off : BitVec 8) (data : Word)
  /-- `WR_IGNORED` (R214). -/
  | wrIgnored (off : BitVec 8) (data : Word)
  /-- `AOT_LC` (R94): `baseType = 2`. -/
  | aotLc
  /-- `AOT_ESCAPE` (R94): `baseType = 31`. -/
  | aotEscape
  /-- `AOT_UNSUPPORTED` (R94): any other `baseType`. -/
  | aotUnsupported (baseType : BitVec 5)
  /-- `AOT_EXT` (R95): any `ext`. -/
  | aotExt (ext : BitVec 6)
  /-- `SFI_0` (R96, R97): `freqIdx = 0`. -/
  | sfi0
  /-- `SFI_1` (R96, R97): `freqIdx = 1`. -/
  | sfi1
  /-- `SFI_2` (R96, R97): `freqIdx = 2`. -/
  | sfi2
  /-- `SFI_3` (R96, R97): `freqIdx = 3`. -/
  | sfi3
  /-- `SFI_4` (R96, R97): `freqIdx = 4`. -/
  | sfi4
  /-- `SFI_5` (R96, R97): `freqIdx = 5`. -/
  | sfi5
  /-- `SFI_6` (R96, R97): `freqIdx = 6`. -/
  | sfi6
  /-- `SFI_7` (R96, R97): `freqIdx = 7`. -/
  | sfi7
  /-- `SFI_8` (R96, R97): `freqIdx = 8`. -/
  | sfi8
  /-- `SFI_9` (R96, R97): `freqIdx = 9`. -/
  | sfi9
  /-- `SFI_10` (R96, R97): `freqIdx = 10`. -/
  | sfi10
  /-- `SFI_11` (R96, R97): `freqIdx = 11`. -/
  | sfi11
  /-- `SFI_12` (R96, R97): `freqIdx = 12`. -/
  | sfi12
  /-- `SFI_RSV_13` (R96): `freqIdx = 13`, reserved. -/
  | sfiRsv13
  /-- `SFI_RSV_14` (R96): `freqIdx = 14`, reserved. -/
  | sfiRsv14
  /-- `SFI_EXPLICIT` (R96): `freqIdx = 15`. -/
  | sfiExplicit
  /-- `RATE_EXPLICIT` (R98): any 24-bit rate. -/
  | rateExplicit (rate : Rate)
  /-- `CC_PCE` (R99): `chanCfg = 0`. -/
  | ccPce
  /-- `CC_1` (R99): `chanCfg = 1`. -/
  | cc1
  /-- `CC_2` (R99): `chanCfg = 2`. -/
  | cc2
  /-- `CC_3` (R99): `chanCfg = 3`. -/
  | cc3
  /-- `CC_4` (R99): `chanCfg = 4`. -/
  | cc4
  /-- `CC_5` (R99): `chanCfg = 5`. -/
  | cc5
  /-- `CC_6` (R99): `chanCfg = 6`. -/
  | cc6
  /-- `CC_7` (R99): `chanCfg = 7`. -/
  | cc7
  /-- `CC_RSV_8` (R99): `chanCfg = 8`, reserved. -/
  | ccRsv8
  /-- `CC_RSV_9` (R99): `chanCfg = 9`, reserved. -/
  | ccRsv9
  /-- `CC_RSV_10` (R99): `chanCfg = 10`, reserved. -/
  | ccRsv10
  /-- `CC_RSV_11` (R99): `chanCfg = 11`, reserved. -/
  | ccRsv11
  /-- `CC_RSV_12` (R99): `chanCfg = 12`, reserved. -/
  | ccRsv12
  /-- `CC_RSV_13` (R99): `chanCfg = 13`, reserved. -/
  | ccRsv13
  /-- `CC_RSV_14` (R99): `chanCfg = 14`, reserved. -/
  | ccRsv14
  /-- `CC_RSV_15` (R99): `chanCfg = 15`, reserved. -/
  | ccRsv15
  deriving DecidableEq, Repr

/-- Why the decoder of instruction words refuses a word. -/
inductive Reject where
  /-- `STATE` codes 6 and 7: no rule writes them (10_state.md R23, 41_config_decoder.md R165). -/
  | noSuchState (st : BitVec 3)
  /-- A Bit Reader request outside `1 ≤ N ≤ 32` (30_encoding.md R107). -/
  | readWidth (n : BitVec 6)
  deriving DecidableEq, Repr

/-- The error kinds of a failed decode (10_state.md R27). -/
inductive ErrKind where
  | endOfInput
  | unsupportedType
  | invalidSfi
  | invalidCc
  | ccNotSupported
  deriving DecidableEq, Repr

/-- The `Type` of a config record: one variant (10_state.md R25). -/
inductive AudioType where
  | aacLc
  deriving DecidableEq, Repr

/-- The config record (10_state.md R25). -/
structure AscRecord where
  type : AudioType
  sampleRate : Rate
  channelCount : BitVec 4
  deriving DecidableEq, Repr

/-- The result of one decode (10_state.md R29). -/
inductive AscResult where
  | ok (r : AscRecord)
  | err (kind : ErrKind) (value : BitVec 7)
  deriving DecidableEq, Repr

/-- The codes of `STATE` (10_state.md R23). -/
abbrev Fsm.idle : BitVec 3 := 0#3
abbrev Fsm.sAot : BitVec 3 := 1#3
abbrev Fsm.sAotExt : BitVec 3 := 2#3
abbrev Fsm.sSfi : BitVec 3 := 3#3
abbrev Fsm.sRate : BitVec 3 := 4#3
abbrev Fsm.sCc : BitVec 3 := 5#3

end Sys2Proof
end

