-- ==== Sys2Proof/Machine/State.lean ====
section
/-! DEFINITION. The state of one instance of the block, its reset, and the reasons a step can stop. -/

namespace Sys2Proof.Machine

/-- The input bytes `IBUF[0 .. IBUF_BYTES-1]` (10_state.md R39, 20_memory.md R60), as a list of
(index, byte) pairs in one canonical form: indices strictly rising, and no entry holding
`unlistedByte`. -/
abbrev Memory := List Host.Cell

/-- What an unlisted input byte reads as: 0, the reset value of every `IBUF[i]` (10_state.md R43,
70_reset_and_hazards.md R280; log entry 19). -/
def unlistedByte : Byte := 0#8

/-- One turn of one agent (00_scope.md R14): the agents interleave in any order (20_memory.md R72),
so the order is data. -/
inductive Turn where
  /-- The decoder agent takes the step `STATE` names (41_config_decoder.md). -/
  | decoder
  /-- The host agent makes one register access (30_encoding.md R104). -/
  | host (w : HostAcc)
  /-- The environment applies the reset input `RST` (70_reset_and_hazards.md R280). -/
  | rst
  deriving DecidableEq, Repr

/-- What a `READBITS` reports to its caller (40_bit_reader.md R140): a value, zero-extended, or end
of input. -/
inductive BitOut where
  | value (v : Word)
  | endOfInput
  deriving DecidableEq, Repr

/-- The state of one instance: every element of 10_state.md R21, the parameter `IBUF_BYTES`, and the
model's own three fields. -/
structure State where
  /-- `STATE`, the decoder state machine (10_state.md R23). -/
  state : BitVec 3
  /-- `POS`, the Bit Reader cursor (10_state.md R31). -/
  pos : BitVec 6
  /-- `L_RATE`, the sample-rate latch (10_state.md R40). -/
  lRate : Rate
  /-- `DONE` (10_state.md R33, R42). -/
  done : Bool
  /-- `KIND` (10_state.md R27, R33). -/
  kind : BitVec 3
  /-- `ERRVAL` (10_state.md R34). -/
  errval : BitVec 7
  /-- `RES_AOT` (10_state.md R35). -/
  resAot : BitVec 7
  /-- `RES_RATE` (10_state.md R36). -/
  resRate : Rate
  /-- `RES_CH` (10_state.md R37). -/
  resCh : BitVec 4
  /-- `ILEN` (10_state.md R38). -/
  ilen : BitVec 8
  /-- `IBUF` (10_state.md R39). -/
  ibuf : Memory
  /-- The parameter `IBUF_BYTES` (00_scope.md R8): 5 to 56, written by no step (log entry 5). -/
  ibufBytes : Nat
  /-- The MODEL's own: the turns still to come; where none is left the decoder agent moves (log
  entry 1). -/
  turns : List Turn
  /-- The MODEL's own: the value the last host read transaction returned (30_encoding.md R104; log
  entry 3). -/
  hostRead : Option Word
  /-- The MODEL's own: what the last `READBITS` executed as an instruction of its own reported
  (40_bit_reader.md R140; log entry 4). -/
  bitOut : Option BitOut
  deriving DecidableEq, Repr

/-- The block right after reset (10_state.md R43, 70_reset_and_hazards.md R280): every element 0,
with the default `IBUF_BYTES` of 00_scope.md R8, no turn to come and nothing reported. -/
def State.reset : State where
  state := Fsm.idle
  pos := 0#6
  lRate := 0#24
  done := false
  kind := 0#3
  errval := 0#7
  resAot := 0#7
  resRate := 0#24
  resCh := 0#4
  ilen := 0#8
  ibuf := []
  ibufBytes := Config.ibufBytesDefault
  turns := []
  hostRead := none
  bitOut := none

/-- Why the machine stops. The block itself has no trap (60_exceptions.md, opening): a decode's
errors are results, not faults. -/
inductive Fault where
  /-- Raised by an access to input byte `i` when the block has no byte register `i`
  (`IBUF_BYTES ≤ i`, 10_state.md R39). No decode makes one (41_config_decoder.md R170). Safe: the
  model stops (log entry 6). -/
  | noInputByte (i : Nat)
  deriving DecidableEq, Repr

/-- Why an instruction or a state has no meaning. -/
inductive Refusal where
  /-- Raised by `exec` for an instruction that has no meaning yet; none is left. Safe. -/
  | notModelled (mnemonic : String)
  /-- Raised by `READBITS` with a width outside 1..32, as 40_bit_reader.md R142 says. Safe. -/
  | readWidth (n : BitVec 6)
  /-- Raised by a step in a state whose `STATE` is 6 or 7, as 41_config_decoder.md R165 says. Safe. -/
  | unreachableState (st : BitVec 3)
  /-- Raised by a step in a state whose `KIND` is 6 or 7, as 92_eei_decisions.md D28 says. Safe. -/
  | unreachableKind (k : BitVec 3)
  /-- Raised by a step whose word no row gives a meaning. Safe; behind `unreachableState` no step
  raises it. -/
  | undecodable (r : Reject)
  deriving DecidableEq, Repr

/-- The three outcomes of a step, at this machine's types. -/
abbrev Out := Host.Outcome State Fault Refusal

end Sys2Proof.Machine
end

