-- ==== Sys2Proof/Machine/Flags.lean ====
section
/-! DEFINITION. The two status flags and the status word (10_state.md R24, R33, R42). -/

namespace Sys2Proof.Machine

/-- `BUSY = (STATE != IDLE)`, computed, not stored (10_state.md R24). -/
def busy (s : State) : Bool := decide (s.state ≠ Fsm.idle)

/-- The word a read of `STATUS` returns: `zext_32(KIND ++ 0b00 ++ DONE ++ BUSY)` (10_state.md R33,
42_host_interface.md R205). -/
def statusWord (s : State) : Word :=
  (s.kind ++ 0#2 ++ BitVec.ofBool s.done ++ BitVec.ofBool (busy s)).setWidth 32

end Sys2Proof.Machine
end

