-- ==== Sys2Proof/Machine/Operands.lean ====
section
/-! DEFINITION. How operands are formed: the bit order of the input, the fields of host data, the
value tables, and the codes of the error kinds. -/

namespace Sys2Proof.Machine

/-- `StreamBit(k)`: bit `7 - (k mod 8)` of byte `k div 8` (00_scope.md R10, 20_memory.md R61). -/
def streamBit (byteAt : Nat → Byte) (k : Nat) : Bool := (byteAt (k / 8)).getLsbD (7 - k % 8)

/-- The number whose `n` bits are `bit p, bit (p+1), …`, the first the most significant
(20_memory.md R62, 30_encoding.md R92): the accumulator of 40_bit_reader.md R140. -/
def assembleBits (bit : Nat → Bool) (p : Nat) : Nat → Nat
  | 0 => 0
  | n + 1 => 2 * assembleBits bit p n + (bit (p + n)).toNat

/-- The value of the `n`-bit field at stream position `p` (30_encoding.md R92). -/
def fieldValue (byteAt : Nat → Byte) (p n : Nat) : Nat := assembleBits (streamBit byteAt) p n

/-- The low byte of host write data, `DATA[7:0]`; the bits above are reserved and ignored
(42_host_interface.md R203, R204). -/
def dataByte (data : Word) : Byte := data.extractLsb' 0 8

/-- `SFI_TABLE`, the standard sampling rates in Hz (30_encoding.md R97). Entries 1, 2 and 5 to 11
are marked by the spec as from general knowledge (93_implementation_defined.md K1; log entry 9). -/
def sfiTable : List Rate :=
  [96000#24, 88200#24, 64000#24, 48000#24, 44100#24, 32000#24, 24000#24, 22050#24, 16000#24,
    12000#24, 11025#24, 8000#24, 7350#24]

/-- `SFI_TABLE[k]` (30_encoding.md R97), for `k ≤ 12`. -/
def sfiRate (k : Nat) : Rate := sfiTable.getD k 0#24

/-- `CC_TABLE`: the channel count of `chanCfg` 1 to 7 (30_encoding.md R99). -/
def channelCount (chanCfg : BitVec 4) : BitVec 4 := if chanCfg = 7#4 then 8#4 else chanCfg

/-- The resolved type on the direct path, `actualType = baseType` (30_encoding.md R93). -/
def directType (baseType : BitVec 5) : BitVec 7 := baseType.setWidth 7

/-- The resolved type on the extended path, `actualType = 32 + ext` (30_encoding.md R93). -/
def extendedType (ext : BitVec 6) : BitVec 7 := 32#7 + ext.setWidth 7

/-- The code of an error kind in `KIND` (10_state.md R27). -/
def kindCode : ErrKind → BitVec 3
  | .endOfInput => 1#3
  | .unsupportedType => 2#3
  | .invalidSfi => 3#3
  | .invalidCc => 4#3
  | .ccNotSupported => 5#3

/-- The error kind a code in `KIND` stands for (10_state.md R27): none for 0 (`NONE`), 6 and 7. -/
def kindOfCode (k : BitVec 3) : Option ErrKind :=
  match k.toNat with
  | 1 => some .endOfInput
  | 2 => some .unsupportedType
  | 3 => some .invalidSfi
  | 4 => some .invalidCc
  | 5 => some .ccNotSupported
  | _ => none

end Sys2Proof.Machine
end

