-- ==== Sys2Proof/Machine/Ops.lean ====
section
/-! DEFINITION. The named operations: input bytes, the Bit Reader, the completion of a decode (the
block's only exception entry is `finishErr`), START's initialisation, and reset. -/

namespace Sys2Proof.Machine

/-- `MemRead(i, 1)` (20_memory.md R63). -/
def Memory.read : Memory → Nat → Byte
  | [], _ => unlistedByte
  | (a, b) :: m, i => if a = i then b else Memory.read m i

/-- `MemWrite(i, 1, v)` (00_scope.md R13): writing `unlistedByte` removes the entry. -/
def Memory.write : Memory → Nat → Byte → Memory
  | [], i, v => if v = unlistedByte then [] else [(i, v)]
  | (a, b) :: m, i, v =>
    if i < a then (if v = unlistedByte then (a, b) :: m else (i, v) :: (a, b) :: m)
    else if i = a then (if v = unlistedByte then m else (i, v) :: m)
    else (a, b) :: Memory.write m i v

/-- The canonical form: indices strictly rising, no entry holding `unlistedByte`. -/
def Memory.wf : Memory → Bool
  | [] => true
  | (a, b) :: m => decide (b ≠ unlistedByte) && m.all (fun c => decide (a < c.1)) && Memory.wf m

/-- `IBUF[i] <- v`, for a byte register the block has (10_state.md R39). -/
def State.setByte (s : State) (i : Nat) (v : Byte) : State := { s with ibuf := s.ibuf.write i v }

/-- `ILEN <- v` (10_state.md R38). -/
def State.setIlen (s : State) (v : BitVec 8) : State := { s with ilen := v }

/-- `STATE <- code` (00_scope.md R13). -/
def State.goto (s : State) (code : BitVec 3) : State := { s with state := code }

/-- `L_RATE <- rate` (10_state.md R40). -/
def State.latchRate (s : State) (rate : Rate) : State := { s with lRate := rate }

/-- A read transaction returns `v` to the host (30_encoding.md R104); no element of the block
changes (20_memory.md R69). -/
def State.answerHost (s : State) (v : Word) : State := { s with hostRead := some v }

/-- `READBITS` as an instruction of its own reports to its caller (40_bit_reader.md R140). -/
def State.reportBits (s : State) (o : BitOut) : State := { s with bitOut := some o }

/-- The turn just taken leaves the list (log entry 1). -/
def State.popTurn (s : State) : State := { s with turns := s.turns.tail }

/-- The cursor at stream position `k` (10_state.md R31). Positions above 63 are reached by no decode
(41_config_decoder.md R170); the spec states no value for them: a free value (log entry 7). -/
def cursorAt (k : Nat) : BitVec 6 := if k < 64 then BitVec.ofNat 6 k else Config.posBeyond k

/-- `POS <- POS + n` (40_bit_reader.md R140). -/
def State.advance (s : State) (n : Nat) : State := { s with pos := cursorAt (s.pos.toNat + n) }

/-- The three ways a `READBITS` can go. -/
inductive ReadResult where
  /-- The value, and the state with `POS` advanced. -/
  | value (v : Nat) (s : State)
  /-- `EndOfInput`: no value, no state change (40_bit_reader.md R141). -/
  | endOfInput
  /-- The read needs input byte `i`, which the block does not have (log entry 6). -/
  | noByte (i : Nat)
  deriving DecidableEq, Repr

/-- The bits remaining, `8 * ILEN - POS` (40_bit_reader.md R143), in natural arithmetic (log entry
18). -/
def bitsLeft (s : State) : Nat := 8 * s.ilen.toNat - s.pos.toNat

/-- The highest input byte a read of `n` bits uses, `(POS + n - 1) div 8` (40_bit_reader.md R140). -/
def lastByteOf (n : Nat) (s : State) : Nat := (s.pos.toNat + n - 1) / 8

/-- `READBITS(n)` (40_bit_reader.md R140), for `1 ≤ n`: end of input is tested before any byte is
used (R143); only `POS` is written, and only on success (R141, R144). -/
def readBits (n : Nat) (s : State) : ReadResult :=
  if bitsLeft s < n then .endOfInput
  else if s.ibufBytes ≤ lastByteOf n s then .noByte (lastByteOf n s)
  else .value (fieldValue s.ibuf.read s.pos.toNat n) (s.advance n)

/-- `FINISH_OK(rate, ch)` (41_config_decoder.md R166): the whole record at once. -/
def finishOk (rate : Rate) (ch : BitVec 4) (s : State) : State :=
  { s with
    resAot := 2#7
    resRate := rate
    resCh := ch
    kind := 0#3
    errval := 0#7
    done := true
    state := Fsm.idle }

/-- `FINISH_ERR(kind, v)` (41_config_decoder.md R167): the block's one error entry. It records the
kind and the payload and returns to `IDLE` (60_exceptions.md R245). Nothing is saved to return to,
and there is no return from an error (60_exceptions.md R246): the next START begins afresh. -/
def finishErr (k : ErrKind) (v : BitVec 7) (s : State) : State :=
  { s with
    kind := kindCode k
    errval := v
    done := true
    state := Fsm.idle }

/-- What a START that begins a decode writes (42_host_interface.md R201, 10_state.md R44). -/
def startDecode (s : State) : State :=
  { s with
    pos := 0#6
    lRate := 0#24
    done := false
    kind := 0#3
    errval := 0#7
    resAot := 0#7
    resRate := 0#24
    resCh := 0#4
    state := Fsm.sAot }

/-- What the reset input does (70_reset_and_hazards.md R280): every element of the block at its
reset value. The parameter `IBUF_BYTES`, the turns to come and what the host has read are not
elements of the block and stay (log entry 2). -/
def resetBlock (s : State) : State :=
  { State.reset with ibufBytes := s.ibufBytes, turns := s.turns, hostRead := s.hostRead }

/-- One field read inside a decoder step (41_config_decoder.md, opening): read `n` bits and go on
with the value; `EndOfInput` ends the step at once with `FINISH_ERR(END_OF_INPUT, 0)`. -/
def withField (n : Nat) (k : BitVec n → State → Out) (s : State) : Out :=
  match readBits n s with
  | .value v s' => k (BitVec.ofNat n v) s'
  | .endOfInput => .next (finishErr .endOfInput 0#7 s)
  | .noByte i => .fault (.noInputByte i)

/-- An input register write: it takes effect only while `BUSY = 0`, else it is ignored
(42_host_interface.md R203, R204). -/
def whenIdle (s : State) (o : Out) : Out := if busy s then .next s else o

end Sys2Proof.Machine
end

