-- ==== Sys2Proof/Machine/BitReader.lean ====
section
/-! DEFINITION. The Bit Reader's primitive as an instruction of its own (40_bit_reader.md). -/

namespace Sys2Proof.Machine

/-- `READBITS` (40_bit_reader.md R140): the value or end of input is reported to the caller, here
`State.bitOut`; a width outside 1..32 is refused (R142). -/
def execReadbits (n : BitVec 6) (s : State) : Out :=
  if 1 ≤ n.toNat ∧ n.toNat ≤ Config.readMax then
    match readBits n.toNat s with
    | .value v s' => .next (s'.reportBits (.value (BitVec.ofNat 32 v)))
    | .endOfInput => .next (s.reportBits .endOfInput)
    | .noByte i => .fault (.noInputByte i)
  else .refused (.readWidth n)

end Sys2Proof.Machine
end

