-- ==== Sys2Proof/Machine/Fields.lean ====
section
/-! DEFINITION. The actions of the field values of the ASC (30_encoding.md R94 to R99): what a
decoder step does with the value it has just read. `POS` is past the field already. -/

namespace Sys2Proof.Machine

/-- `AOT_LC`: accept; next field is `freqIdx` (30_encoding.md R94). -/
def execAotLc (s : State) : Out := .next (s.goto Fsm.sSfi)

/-- `AOT_ESCAPE`: the extended type marker; next field is `ext` (30_encoding.md R94). -/
def execAotEscape (s : State) : Out := .next (s.goto Fsm.sAotExt)

/-- `AOT_UNSUPPORTED`: fail with payload `baseType` (30_encoding.md R94). -/
def execAotUnsupported (baseType : BitVec 5) (s : State) : Out :=
  .next (finishErr .unsupportedType (directType baseType) s)

/-- `AOT_EXT`: the check of `actualType = 32 + ext` as 41_config_decoder.md R161 writes it; the
second branch is never taken, since `32 + ext` is at least 32. -/
def execAotExt (ext : BitVec 6) (s : State) : Out :=
  if extendedType ext ≠ 2#7 then .next (finishErr .unsupportedType (extendedType ext) s)
  else .next (s.goto Fsm.sSfi)

/-- A table rate: `L_RATE <- SFI_TABLE[k]`, next field is `chanCfg` (30_encoding.md R96). -/
def acceptRateIndex (k : Nat) (s : State) : Out := .next ((s.latchRate (sfiRate k)).goto Fsm.sCc)

/-- `SFI_0`: a table rate (30_encoding.md R96, R97). -/
def execSfi0 (s : State) : Out := acceptRateIndex 0 s

/-- `SFI_1`: a table rate (30_encoding.md R96, R97). -/
def execSfi1 (s : State) : Out := acceptRateIndex 1 s

/-- `SFI_2`: a table rate (30_encoding.md R96, R97). -/
def execSfi2 (s : State) : Out := acceptRateIndex 2 s

/-- `SFI_3`: a table rate (30_encoding.md R96, R97). -/
def execSfi3 (s : State) : Out := acceptRateIndex 3 s

/-- `SFI_4`: a table rate (30_encoding.md R96, R97). -/
def execSfi4 (s : State) : Out := acceptRateIndex 4 s

/-- `SFI_5`: a table rate (30_encoding.md R96, R97). -/
def execSfi5 (s : State) : Out := acceptRateIndex 5 s

/-- `SFI_6`: a table rate (30_encoding.md R96, R97). -/
def execSfi6 (s : State) : Out := acceptRateIndex 6 s

/-- `SFI_7`: a table rate (30_encoding.md R96, R97). -/
def execSfi7 (s : State) : Out := acceptRateIndex 7 s

/-- `SFI_8`: a table rate (30_encoding.md R96, R97). -/
def execSfi8 (s : State) : Out := acceptRateIndex 8 s

/-- `SFI_9`: a table rate (30_encoding.md R96, R97). -/
def execSfi9 (s : State) : Out := acceptRateIndex 9 s

/-- `SFI_10`: a table rate (30_encoding.md R96, R97). -/
def execSfi10 (s : State) : Out := acceptRateIndex 10 s

/-- `SFI_11`: a table rate (30_encoding.md R96, R97). -/
def execSfi11 (s : State) : Out := acceptRateIndex 11 s

/-- `SFI_12`: a table rate (30_encoding.md R96, R97). -/
def execSfi12 (s : State) : Out := acceptRateIndex 12 s

/-- `SFI_RSV_13`: reserved, fail `INVALID_SFI` with payload 13 (30_encoding.md R96). -/
def execSfiRsv13 (s : State) : Out := .next (finishErr .invalidSfi 13#7 s)

/-- `SFI_RSV_14`: reserved, fail `INVALID_SFI` with payload 14 (30_encoding.md R96). -/
def execSfiRsv14 (s : State) : Out := .next (finishErr .invalidSfi 14#7 s)

/-- `SFI_EXPLICIT`: the explicit-rate marker; next field is the 24-bit rate (30_encoding.md R96). -/
def execSfiExplicit (s : State) : Out := .next (s.goto Fsm.sRate)

/-- `RATE_EXPLICIT`: the value itself is the rate, no check and no table (30_encoding.md R98). -/
def execRateExplicit (rate : Rate) (s : State) : Out := .next ((s.latchRate rate).goto Fsm.sCc)

/-- `CC_PCE`: fail `CC_NOT_SUPPORTED`, no payload (30_encoding.md R99). -/
def execCcPce (s : State) : Out := .next (finishErr .ccNotSupported 0#7 s)

/-- A standard layout: complete with the latched rate and the channel count of `chanCfg`
(30_encoding.md R99, 41_config_decoder.md R164). -/
def acceptChannels (chanCfg : BitVec 4) (s : State) : Out :=
  .next (finishOk s.lRate (channelCount chanCfg) s)

/-- A reserved layout: fail `INVALID_CC` with payload `chanCfg` (30_encoding.md R99). -/
def rejectChannels (chanCfg : BitVec 4) (s : State) : Out :=
  .next (finishErr .invalidCc (chanCfg.setWidth 7) s)

/-- `CC_1`: 1 channel (30_encoding.md R99). -/
def execCc1 (s : State) : Out := acceptChannels 1#4 s

/-- `CC_2`: 2 channels (30_encoding.md R99). -/
def execCc2 (s : State) : Out := acceptChannels 2#4 s

/-- `CC_3`: 3 channels (30_encoding.md R99). -/
def execCc3 (s : State) : Out := acceptChannels 3#4 s

/-- `CC_4`: 4 channels (30_encoding.md R99). -/
def execCc4 (s : State) : Out := acceptChannels 4#4 s

/-- `CC_5`: 5 channels (30_encoding.md R99). -/
def execCc5 (s : State) : Out := acceptChannels 5#4 s

/-- `CC_6`: 6 channels (30_encoding.md R99). -/
def execCc6 (s : State) : Out := acceptChannels 6#4 s

/-- `CC_7`: 8 channels (30_encoding.md R99). -/
def execCc7 (s : State) : Out := acceptChannels 7#4 s

/-- `CC_RSV_8`: reserved (30_encoding.md R99). -/
def execCcRsv8 (s : State) : Out := rejectChannels 8#4 s

/-- `CC_RSV_9`: reserved (30_encoding.md R99). -/
def execCcRsv9 (s : State) : Out := rejectChannels 9#4 s

/-- `CC_RSV_10`: reserved (30_encoding.md R99). -/
def execCcRsv10 (s : State) : Out := rejectChannels 10#4 s

/-- `CC_RSV_11`: reserved (30_encoding.md R99). -/
def execCcRsv11 (s : State) : Out := rejectChannels 11#4 s

/-- `CC_RSV_12`: reserved (30_encoding.md R99). -/
def execCcRsv12 (s : State) : Out := rejectChannels 12#4 s

/-- `CC_RSV_13`: reserved (30_encoding.md R99). -/
def execCcRsv13 (s : State) : Out := rejectChannels 13#4 s

/-- `CC_RSV_14`: reserved (30_encoding.md R99). -/
def execCcRsv14 (s : State) : Out := rejectChannels 14#4 s

/-- `CC_RSV_15`: reserved (30_encoding.md R99). -/
def execCcRsv15 (s : State) : Out := rejectChannels 15#4 s

/-- The action of a `baseType` value (41_config_decoder.md R160, after the read). -/
def onBaseType (v : BitVec 5) (s : State) : Out :=
  if v = 2#5 then execAotLc s else if v = 31#5 then execAotEscape s else execAotUnsupported v s

/-- The action of an `ext` value (41_config_decoder.md R161, after the read). -/
def onExt (v : BitVec 6) (s : State) : Out := execAotExt v s

/-- The action of a `freqIdx` value (41_config_decoder.md R162, after the read). -/
def onFreqIdx (v : BitVec 4) (s : State) : Out :=
  match v.toNat with
  | 0 => execSfi0 s
  | 1 => execSfi1 s
  | 2 => execSfi2 s
  | 3 => execSfi3 s
  | 4 => execSfi4 s
  | 5 => execSfi5 s
  | 6 => execSfi6 s
  | 7 => execSfi7 s
  | 8 => execSfi8 s
  | 9 => execSfi9 s
  | 10 => execSfi10 s
  | 11 => execSfi11 s
  | 12 => execSfi12 s
  | 13 => execSfiRsv13 s
  | 14 => execSfiRsv14 s
  | _ => execSfiExplicit s

/-- The action of an explicit rate (41_config_decoder.md R163, after the read). -/
def onRate (v : Rate) (s : State) : Out := execRateExplicit v s

/-- The action of a `chanCfg` value (41_config_decoder.md R164, after the read). -/
def onChanCfg (v : BitVec 4) (s : State) : Out :=
  match v.toNat with
  | 0 => execCcPce s
  | 1 => execCc1 s
  | 2 => execCc2 s
  | 3 => execCc3 s
  | 4 => execCc4 s
  | 5 => execCc5 s
  | 6 => execCc6 s
  | 7 => execCc7 s
  | 8 => execCcRsv8 s
  | 9 => execCcRsv9 s
  | 10 => execCcRsv10 s
  | 11 => execCcRsv11 s
  | 12 => execCcRsv12 s
  | 13 => execCcRsv13 s
  | 14 => execCcRsv14 s
  | _ => execCcRsv15 s

end Sys2Proof.Machine
end

