-- ==== Sys2Proof/Machine/Decoder.lean ====
section
/-! DEFINITION. The steps of the Config Decoder (41_config_decoder.md): one field read each, then the
action of the value read. -/

namespace Sys2Proof.Machine

/-- `IDLE` (R165): the decoder agent has no enabled step; its turn passes and all state stays
(60_exceptions.md R254; log entry 1). -/
def execIdle (s : State) : Out := .next s

/-- `S_AOT` (R160): the 5-bit `baseType`. -/
def execSAot (s : State) : Out := withField 5 onBaseType s

/-- `S_AOT_EXT` (R161): the 6-bit `ext`. -/
def execSAotExt (s : State) : Out := withField 6 onExt s

/-- `S_SFI` (R162): the 4-bit `freqIdx`. -/
def execSSfi (s : State) : Out := withField 4 onFreqIdx s

/-- `S_RATE` (R163): the 24-bit explicit rate. -/
def execSRate (s : State) : Out := withField 24 onRate s

/-- `S_CC` (R164): the 4-bit `chanCfg`; it completes the decode. -/
def execSCc (s : State) : Out := withField 4 onChanCfg s

end Sys2Proof.Machine
end

