-- ==== Sys2Proof/Machine/HostAccess.lean ====
section
/-! DEFINITION. The host register accesses (42_host_interface.md): each is one atomic step that never
stalls and never errors (R200). A read changes nothing in the block (20_memory.md R69); its value goes
to the host (30_encoding.md R104). -/

namespace Sys2Proof.Machine

/-- `START` (R201): begin a decode; ignored while busy (R202). -/
def execStart (s : State) : Out := whenIdle s (.next (startDecode s))

/-- `WR_CTRL_NOP` (R202): no state changes. -/
def execWrCtrlNop (s : State) : Out := .next s

/-- `WR_ILEN` (R203): `ILEN <- DATA[7:0]`; ignored while busy. -/
def execWrIlen (data : Word) (s : State) : Out := whenIdle s (.next (s.setIlen (dataByte data)))

/-- `WR_IBUF` (R204): `IBUF[i] <- DATA[7:0]`; ignored while busy. The decoder of transaction words
gives only indices the block has. -/
def execWrIbuf (i : BitVec 6) (data : Word) (s : State) : Out :=
  whenIdle s (if i.toNat < s.ibufBytes then .next (s.setByte i.toNat (dataByte data))
    else .fault (.noInputByte i.toNat))

/-- `RD_STATUS` (R205). -/
def execRdStatus (s : State) : Out := .next (s.answerHost (statusWord s))

/-- `RD_ERRVAL` (R206). -/
def execRdErrval (s : State) : Out := .next (s.answerHost (s.errval.setWidth 32))

/-- `RD_RES_AOT` (R207). -/
def execRdResAot (s : State) : Out := .next (s.answerHost (s.resAot.setWidth 32))

/-- `RD_RES_RATE` (R208). -/
def execRdResRate (s : State) : Out := .next (s.answerHost (s.resRate.setWidth 32))

/-- `RD_RES_CH` (R209). -/
def execRdResCh (s : State) : Out := .next (s.answerHost (s.resCh.setWidth 32))

/-- `RD_ILEN` (R210). -/
def execRdIlen (s : State) : Out := .next (s.answerHost (s.ilen.setWidth 32))

/-- `RD_IBUF` (R211). The decoder of transaction words gives only indices the block has. -/
def execRdIbuf (i : BitVec 6) (s : State) : Out :=
  if i.toNat < s.ibufBytes then .next (s.answerHost ((s.ibuf.read i.toNat).setWidth 32))
  else .fault (.noInputByte i.toNat)

/-- `RD_CTRL` (R212): START is not a stored bit. -/
def execRdCtrl (s : State) : Out := .next (s.answerHost 0#32)

/-- `RD_RESERVED` (R213): returns 0, no bus error. -/
def execRdReserved (s : State) : Out := .next (s.answerHost 0#32)

/-- `WR_IGNORED` (R214): no state changes. -/
def execWrIgnored (s : State) : Out := .next s

end Sys2Proof.Machine
end

