-- ==== Sys2Proof/Machine/Dispatch.lean ====
section
/-! DEFINITION. One arm per instruction, each one direct call of its meaning. -/

namespace Sys2Proof.Machine

def exec (i : Instr) (s : State) : Host.Outcome State Fault Refusal :=
  match i with
  | .readbits n => Sys2Proof.Machine.execReadbits n s
  | .idle => Sys2Proof.Machine.execIdle s
  | .sAot => Sys2Proof.Machine.execSAot s
  | .sAotExt => Sys2Proof.Machine.execSAotExt s
  | .sSfi => Sys2Proof.Machine.execSSfi s
  | .sRate => Sys2Proof.Machine.execSRate s
  | .sCc => Sys2Proof.Machine.execSCc s
  | .start _ => Sys2Proof.Machine.execStart s
  | .wrCtrlNop _ => Sys2Proof.Machine.execWrCtrlNop s
  | .wrIlen data => Sys2Proof.Machine.execWrIlen data s
  | .wrIbuf j data => Sys2Proof.Machine.execWrIbuf j data s
  | .rdStatus _ => Sys2Proof.Machine.execRdStatus s
  | .rdErrval _ => Sys2Proof.Machine.execRdErrval s
  | .rdResAot _ => Sys2Proof.Machine.execRdResAot s
  | .rdResRate _ => Sys2Proof.Machine.execRdResRate s
  | .rdResCh _ => Sys2Proof.Machine.execRdResCh s
  | .rdIlen _ => Sys2Proof.Machine.execRdIlen s
  | .rdIbuf j _ => Sys2Proof.Machine.execRdIbuf j s
  | .rdCtrl _ => Sys2Proof.Machine.execRdCtrl s
  | .rdReserved _ _ => Sys2Proof.Machine.execRdReserved s
  | .wrIgnored _ _ => Sys2Proof.Machine.execWrIgnored s
  | .aotLc => Sys2Proof.Machine.execAotLc s
  | .aotEscape => Sys2Proof.Machine.execAotEscape s
  | .aotUnsupported baseType => Sys2Proof.Machine.execAotUnsupported baseType s
  | .aotExt ext => Sys2Proof.Machine.execAotExt ext s
  | .sfi0 => Sys2Proof.Machine.execSfi0 s
  | .sfi1 => Sys2Proof.Machine.execSfi1 s
  | .sfi2 => Sys2Proof.Machine.execSfi2 s
  | .sfi3 => Sys2Proof.Machine.execSfi3 s
  | .sfi4 => Sys2Proof.Machine.execSfi4 s
  | .sfi5 => Sys2Proof.Machine.execSfi5 s
  | .sfi6 => Sys2Proof.Machine.execSfi6 s
  | .sfi7 => Sys2Proof.Machine.execSfi7 s
  | .sfi8 => Sys2Proof.Machine.execSfi8 s
  | .sfi9 => Sys2Proof.Machine.execSfi9 s
  | .sfi10 => Sys2Proof.Machine.execSfi10 s
  | .sfi11 => Sys2Proof.Machine.execSfi11 s
  | .sfi12 => Sys2Proof.Machine.execSfi12 s
  | .sfiRsv13 => Sys2Proof.Machine.execSfiRsv13 s
  | .sfiRsv14 => Sys2Proof.Machine.execSfiRsv14 s
  | .sfiExplicit => Sys2Proof.Machine.execSfiExplicit s
  | .rateExplicit rate => Sys2Proof.Machine.execRateExplicit rate s
  | .ccPce => Sys2Proof.Machine.execCcPce s
  | .cc1 => Sys2Proof.Machine.execCc1 s
  | .cc2 => Sys2Proof.Machine.execCc2 s
  | .cc3 => Sys2Proof.Machine.execCc3 s
  | .cc4 => Sys2Proof.Machine.execCc4 s
  | .cc5 => Sys2Proof.Machine.execCc5 s
  | .cc6 => Sys2Proof.Machine.execCc6 s
  | .cc7 => Sys2Proof.Machine.execCc7 s
  | .ccRsv8 => Sys2Proof.Machine.execCcRsv8 s
  | .ccRsv9 => Sys2Proof.Machine.execCcRsv9 s
  | .ccRsv10 => Sys2Proof.Machine.execCcRsv10 s
  | .ccRsv11 => Sys2Proof.Machine.execCcRsv11 s
  | .ccRsv12 => Sys2Proof.Machine.execCcRsv12 s
  | .ccRsv13 => Sys2Proof.Machine.execCcRsv13 s
  | .ccRsv14 => Sys2Proof.Machine.execCcRsv14 s
  | .ccRsv15 => Sys2Proof.Machine.execCcRsv15 s

end Sys2Proof.Machine
end

