-- ==== Sys2Proof/Decode.lean ====
section
/-! DEFINITION. From words to instructions (spec/opcode_table.json, 30_encoding.md) and back.
`ib` is `IBUF_BYTES` (00_scope.md R8): how many offsets are input byte registers depends on it. -/

namespace Sys2Proof

/-- The parts of a transaction word (30_encoding.md R104): `[40]` W. -/
def hostW (w : HostAcc) : Bool := w.getLsbD 40

/-- The parts of a transaction word (30_encoding.md R104): `[39:32]` OFF. -/
def hostOff (w : HostAcc) : BitVec 8 := w.extractLsb' 32 8

/-- The parts of a transaction word (30_encoding.md R104): `[31:0]` DATA. -/
def hostData (w : HostAcc) : Word := w.extractLsb' 0 32

/-- A transaction word from its parts (30_encoding.md R104). -/
def hostWord (wr : Bool) (off : BitVec 8) (data : Word) : HostAcc :=
  BitVec.ofBool wr ++ off ++ data

/-- The input byte register an offset names, `(OFF - 0x20) / 4` (42_host_interface.md R204), if the
block has it (10_state.md R30). -/
def ibufIndex (ib : Nat) (off : BitVec 8) : Option (BitVec 6) :=
  if 0x20 ≤ off.toNat ∧ off.toNat % 4 = 0 ∧ (off.toNat - 0x20) / 4 < ib then
    some (BitVec.ofNat 6 ((off.toNat - 0x20) / 4))
  else none

/-- The offset of input byte register `i`, `0x20 + 4*i` (10_state.md R30). -/
def ibufOffset (i : BitVec 6) : BitVec 8 := BitVec.ofNat 8 (0x20 + 4 * i.toNat)

/-- The write rows of the host access map (30_encoding.md R105). -/
def decodeWrite (ib : Nat) (off : BitVec 8) (data : Word) : Instr :=
  if off = 0x00#8 then (if data.getLsbD 0 then .start data else .wrCtrlNop data)
  else if off = 0x18#8 then .wrIlen data
  else match ibufIndex ib off with
    | some i => .wrIbuf i data
    | none => .wrIgnored off data

/-- The read rows of the host access map (30_encoding.md R105). -/
def decodeRead (ib : Nat) (off : BitVec 8) (data : Word) : Instr :=
  if off = 0x00#8 then .rdCtrl data
  else if off = 0x04#8 then .rdStatus data
  else if off = 0x08#8 then .rdErrval data
  else if off = 0x0C#8 then .rdResAot data
  else if off = 0x10#8 then .rdResRate data
  else if off = 0x14#8 then .rdResCh data
  else if off = 0x18#8 then .rdIlen data
  else match ibufIndex ib off with
    | some i => .rdIbuf i data
    | none => .rdReserved off data

/-- Host transaction words: every word selects exactly one row (30_encoding.md R105). -/
def decodeHost (ib : Nat) (w : HostAcc) : Instr :=
  if hostW w then decodeWrite ib (hostOff w) (hostData w)
  else decodeRead ib (hostOff w) (hostData w)

/-- The codes of `STATE` (10_state.md R23); 6 and 7 are refused (41_config_decoder.md R165). -/
def decodeFsm (st : BitVec 3) : Except Reject Instr :=
  match st.toNat with
  | 0 => .ok .idle
  | 1 => .ok .sAot
  | 2 => .ok .sAotExt
  | 3 => .ok .sSfi
  | 4 => .ok .sRate
  | 5 => .ok .sCc
  | _ => .error (.noSuchState st)

/-- Bit Reader requests: the legal widths are 1 to 32 (30_encoding.md R107). -/
def decodeRdreq (n : BitVec 6) : Except Reject Instr :=
  if 1 ≤ n.toNat ∧ n.toNat ≤ Config.readMax then .ok (.readbits n) else .error (.readWidth n)

/-- The values of `baseType` (30_encoding.md R94). -/
def decodeAot5 (v : BitVec 5) : Instr :=
  if v = 2#5 then .aotLc else if v = 31#5 then .aotEscape else .aotUnsupported v

/-- The values of `freqIdx` (30_encoding.md R96). -/
def decodeSfi4 (v : BitVec 4) : Instr :=
  match v.toNat with
  | 0 => .sfi0
  | 1 => .sfi1
  | 2 => .sfi2
  | 3 => .sfi3
  | 4 => .sfi4
  | 5 => .sfi5
  | 6 => .sfi6
  | 7 => .sfi7
  | 8 => .sfi8
  | 9 => .sfi9
  | 10 => .sfi10
  | 11 => .sfi11
  | 12 => .sfi12
  | 13 => .sfiRsv13
  | 14 => .sfiRsv14
  | _ => .sfiExplicit

/-- The values of `chanCfg` (30_encoding.md R99). -/
def decodeCc4 (v : BitVec 4) : Instr :=
  match v.toNat with
  | 0 => .ccPce
  | 1 => .cc1
  | 2 => .cc2
  | 3 => .cc3
  | 4 => .cc4
  | 5 => .cc5
  | 6 => .cc6
  | 7 => .cc7
  | 8 => .ccRsv8
  | 9 => .ccRsv9
  | 10 => .ccRsv10
  | 11 => .ccRsv11
  | 12 => .ccRsv12
  | 13 => .ccRsv13
  | 14 => .ccRsv14
  | _ => .ccRsv15

/-- The instruction a word stands for, or why there is none. Total: every word of every format is
answered, and only `STATE` codes 6 and 7 and read widths outside 1..32 are refused, by name. -/
def decode (ib : Nat) : Code → Except Reject Instr
  | .rdreq n => decodeRdreq n
  | .fsmstate st => decodeFsm st
  | .hostacc w => .ok (decodeHost ib w)
  | .aot5 v => .ok (decodeAot5 v)
  | .aotext v => .ok (.aotExt v)
  | .sfi4 v => .ok (decodeSfi4 v)
  | .sfix v => .ok (.rateExplicit v)
  | .cc4 v => .ok (decodeCc4 v)

/-- The word of an instruction, from the same tables. -/
def encode : Instr → Code
  | .readbits n => .rdreq n
  | .idle => .fsmstate 0#3
  | .sAot => .fsmstate 1#3
  | .sAotExt => .fsmstate 2#3
  | .sSfi => .fsmstate 3#3
  | .sRate => .fsmstate 4#3
  | .sCc => .fsmstate 5#3
  | .start data => .hostacc (hostWord true 0x00#8 data)
  | .wrCtrlNop data => .hostacc (hostWord true 0x00#8 data)
  | .wrIlen data => .hostacc (hostWord true 0x18#8 data)
  | .wrIbuf i data => .hostacc (hostWord true (ibufOffset i) data)
  | .rdStatus data => .hostacc (hostWord false 0x04#8 data)
  | .rdErrval data => .hostacc (hostWord false 0x08#8 data)
  | .rdResAot data => .hostacc (hostWord false 0x0C#8 data)
  | .rdResRate data => .hostacc (hostWord false 0x10#8 data)
  | .rdResCh data => .hostacc (hostWord false 0x14#8 data)
  | .rdIlen data => .hostacc (hostWord false 0x18#8 data)
  | .rdIbuf i data => .hostacc (hostWord false (ibufOffset i) data)
  | .rdCtrl data => .hostacc (hostWord false 0x00#8 data)
  | .rdReserved off data => .hostacc (hostWord false off data)
  | .wrIgnored off data => .hostacc (hostWord true off data)
  | .aotLc => .aot5 2#5
  | .aotEscape => .aot5 31#5
  | .aotUnsupported v => .aot5 v
  | .aotExt v => .aotext v
  | .sfi0 => .sfi4 0#4
  | .sfi1 => .sfi4 1#4
  | .sfi2 => .sfi4 2#4
  | .sfi3 => .sfi4 3#4
  | .sfi4 => .sfi4 4#4
  | .sfi5 => .sfi4 5#4
  | .sfi6 => .sfi4 6#4
  | .sfi7 => .sfi4 7#4
  | .sfi8 => .sfi4 8#4
  | .sfi9 => .sfi4 9#4
  | .sfi10 => .sfi4 10#4
  | .sfi11 => .sfi4 11#4
  | .sfi12 => .sfi4 12#4
  | .sfiRsv13 => .sfi4 13#4
  | .sfiRsv14 => .sfi4 14#4
  | .sfiExplicit => .sfi4 15#4
  | .rateExplicit v => .sfix v
  | .ccPce => .cc4 0#4
  | .cc1 => .cc4 1#4
  | .cc2 => .cc4 2#4
  | .cc3 => .cc4 3#4
  | .cc4 => .cc4 4#4
  | .cc5 => .cc4 5#4
  | .cc6 => .cc4 6#4
  | .cc7 => .cc4 7#4
  | .ccRsv8 => .cc4 8#4
  | .ccRsv9 => .cc4 9#4
  | .ccRsv10 => .cc4 10#4
  | .ccRsv11 => .cc4 11#4
  | .ccRsv12 => .cc4 12#4
  | .ccRsv13 => .cc4 13#4
  | .ccRsv14 => .cc4 14#4
  | .ccRsv15 => .cc4 15#4

/-- The format a bare number of `nbits` bits is read in, for the host's questions about single table
rows. The block itself never needs this: there a word's place decides (30_encoding.md, opening). A
width that only one format has decides it; a number of one byte is ambiguous, since six formats
share it, and is read in the first of FSMSTATE, SFI4, AOT5, AOTEXT that has the number as a code
(DESIGN CHOICE, log entry 15). A lone Bit Reader request is never one: no step issues it. -/
def codeOfTableWord (nbits w : Nat) : Code :=
  if 32 < nbits then .hostacc (BitVec.ofNat 41 w)
  else if 8 < nbits then .sfix (BitVec.ofNat 24 w)
  else if w < 6 then .fsmstate (BitVec.ofNat 3 w)
  else if w < 16 then .sfi4 (BitVec.ofNat 4 w)
  else if w < 32 then .aot5 (BitVec.ofNat 5 w)
  else .aotext (BitVec.ofNat 6 w)

/-- Whether the number fits a format of that width: a number with a bit set above its format's
width is no word of it. -/
def fitsTableWord (nbits w : Nat) : Bool :=
  if 32 < nbits then decide (w < 2 ^ 41)
  else if 8 < nbits then decide (w < 2 ^ 24)
  else decide (w < 2 ^ 6)

/-- The instruction the decoder reads from a bare number of `nbits` bits, for a block with the
default `IBUF_BYTES` (the table's own masks are for it). -/
def decodeTableWord (nbits w : Nat) : Option Instr :=
  if fitsTableWord nbits w then
    match decode Config.ibufBytesDefault (codeOfTableWord nbits w) with
    | .ok i => some i
    | .error _ => none
  else none

end Sys2Proof
end

