-- ==== Sys2Proof/Machine/Fetch.lean ====
section
/-! DEFINITION. Whose turn it is and which word it runs; and placing a word so that the next step
runs it. -/

namespace Sys2Proof.Machine

/-- What the next step is: a reset, or the instruction of a word. -/
inductive Fetched where
  | rst
  | code (c : Code)
  deriving DecidableEq, Repr

/-- The next step: the head of the turns to come, or the decoder agent where none is left (log entry
1). A decoder turn runs the word in `STATE` (10_state.md R23), a host turn its transaction word. -/
def fetch (s : State) : Fetched :=
  match s.turns with
  | .rst :: _ => .rst
  | .host w :: _ => .code (.hostacc w)
  | .decoder :: _ => .code (.fsmstate s.state)
  | [] => .code (.fsmstate s.state)

/-- A state holding a code that no rule writes is refused: `STATE` 6 or 7, `KIND` 6 or 7
(41_config_decoder.md R165, 92_eei_decisions.md D28, 93_implementation_defined.md I9). -/
def stateRefusal (s : State) : Option Refusal :=
  if 6 ≤ s.state.toNat then some (.unreachableState s.state)
  else if 6 ≤ s.kind.toNat then some (.unreachableKind s.kind)
  else none

/-- Input byte `i` with the `n` bits of `v` put at stream positions `p .. p+n-1`, where they fall in
it, first bit most significant (30_encoding.md R91, R92). -/
def placedByte (old : Nat → Byte) (v p n i : Nat) : Byte :=
  BitVec.ofNat 8 (assembleBits
    (fun k => if p ≤ k ∧ k < p + n then v.testBit (n - 1 - (k - p)) else streamBit old k) (8 * i) 8)

/-- The input with the `n` bits of `v` at stream positions `p .. p+n-1`, which lie in bytes 0 to 4. -/
def placedInput (m : Memory) (v p n : Nat) : Memory :=
  (List.range 5).foldl (fun acc i => acc.write i (placedByte m.read v p n i)) m

/-- The decoder agent's turn next, at state code `st`, about to read the `n`-bit field `v` at stream
position `p`; `ILEN` is raised where the field would not fit. -/
def placeField (s : State) (st : BitVec 3) (p n v : Nat) : State :=
  { s with
    turns := .decoder :: s.turns
    state := st
    pos := BitVec.ofNat 6 p
    ilen := BitVec.ofNat 8 (max s.ilen.toNat ((p + n + 7) / 8))
    ibuf := placedInput s.ibuf v p n }

/-- The word `c` where the next step runs it: a transaction word as the host's next turn; a state
code in `STATE`, with the decoder's turn next; a field value in the input, where the decoder state
that reads the field finds it (30_encoding.md R91). A lone Bit Reader request has no such place: no
step issues one (log entry 4). -/
def placeCode (s : State) : Code → State
  | .rdreq _ => s
  | .fsmstate st => { s with turns := .decoder :: s.turns, state := st }
  | .hostacc w => { s with turns := .host w :: s.turns }
  | .aot5 v => placeField s Fsm.sAot 0 5 v.toNat
  | .aotext v => placeField s Fsm.sAotExt 5 6 v.toNat
  | .sfi4 v => placeField s Fsm.sSfi 5 4 v.toNat
  | .sfix v => placeField s Fsm.sRate 9 24 v.toNat
  | .cc4 v => placeField s Fsm.sCc 9 4 v.toNat

end Sys2Proof.Machine
end

