-- ==== Sys2Proof/Machine/Step.lean ====
section
/-! DEFINITION. One step of the machine: one turn of one agent (00_scope.md R14). -/

namespace Sys2Proof.Machine

/-- One step: a state no rule reaches is refused; a reset turn resets the block
(70_reset_and_hazards.md R280); any other turn runs the instruction of its word. -/
def step (s : State) : Host.Outcome State Fault Refusal :=
  match stateRefusal s with
  | some r => .refused r
  | none =>
    match fetch s with
    | .rst => .next (resetBlock s.popTurn)
    | .code c =>
      match decode s.ibufBytes c with
      | .ok i => exec i s.popTurn
      | .error r => .refused (.undecodable r)

/-- `s` with the instruction of the bare number `w` of `nbits` bits placed where the next step runs
it (log entry 13). -/
def State.withFetchWord (s : State) (nbits w : Nat) : State := placeCode s (codeOfTableWord nbits w)

end Sys2Proof.Machine
end

