-- ==== Sys2Proof/Machine/AscFunction.lean ====
section
/-! DEFINITION. `DECODE(B, L)`, the meaning of a decode as a function from bytes to a result
(41_config_decoder.md R168), and the result as the host reads it from the registers
(42_host_interface.md R215). The block's steps do not use this file: it is what they must agree
with (41_config_decoder.md R169). -/

namespace Sys2Proof.Machine

/-- `READBITS(n)` at stream position `p` over the `L` bytes of `B` (41_config_decoder.md R168,
40_bit_reader.md R140): nothing where fewer than `n` bits remain. -/
def readField (B : List Byte) (p n : Nat) : Option Nat :=
  if 8 * B.length - p < n then none else some (fieldValue (fun i => B.getD i 0#8) p n)

/-- End of input, with no payload (10_state.md R28). -/
def ascEndOfInput : AscResult := .err .endOfInput 0#7

/-- From the channel configuration at position `p` on. -/
def ascFromChannels (B : List Byte) (p : Nat) (rate : Rate) : AscResult :=
  match readField B p 4 with
  | none => ascEndOfInput
  | some chanCfg =>
    if chanCfg = 0 then .err .ccNotSupported 0#7
    else if 8 ≤ chanCfg then .err .invalidCc (BitVec.ofNat 7 chanCfg)
    else .ok ⟨.aacLc, rate, BitVec.ofNat 4 (if chanCfg = 7 then 8 else chanCfg)⟩

/-- From the explicit rate at position `p` on. -/
def ascFromRate (B : List Byte) (p : Nat) : AscResult :=
  match readField B p 24 with
  | none => ascEndOfInput
  | some rate => ascFromChannels B (p + 24) (BitVec.ofNat 24 rate)

/-- From the sampling frequency index at position `p` on. -/
def ascFromIndex (B : List Byte) (p : Nat) : AscResult :=
  match readField B p 4 with
  | none => ascEndOfInput
  | some freqIdx =>
    if freqIdx = 15 then ascFromRate B (p + 4)
    else if freqIdx = 13 ∨ freqIdx = 14 then .err .invalidSfi (BitVec.ofNat 7 freqIdx)
    else ascFromChannels B (p + 4) (sfiRate freqIdx)

/-- The check of the resolved type, then the index at position `p`. -/
def ascCheckType (B : List Byte) (p actualType : Nat) : AscResult :=
  if actualType ≠ 2 then .err .unsupportedType (BitVec.ofNat 7 actualType) else ascFromIndex B p

/-- From the type extension at position `p` on. -/
def ascFromExt (B : List Byte) (p : Nat) : AscResult :=
  match readField B p 6 with
  | none => ascEndOfInput
  | some ext => ascCheckType B (p + 6) (32 + ext)

/-- From the audio object type at position `p` on. -/
def ascFromType (B : List Byte) (p : Nat) : AscResult :=
  match readField B p 5 with
  | none => ascEndOfInput
  | some baseType =>
    if baseType = 31 then ascFromExt B (p + 5) else ascCheckType B (p + 5) baseType

/-- `DECODE(B, L)` with `L` the number of bytes of `B` (41_config_decoder.md R168). -/
def decodeAsc (B : List Byte) : AscResult := ascFromType B 0

/-- What is left of `DECODE` for a decoder standing at state code `st` and position `p` with `rate`
latched (41_config_decoder.md R160 to R164): nothing in `IDLE`, nor for codes 6 and 7. -/
def ascFrom (B : List Byte) (st : BitVec 3) (p : Nat) (rate : Rate) : Option AscResult :=
  match st.toNat with
  | 1 => some (ascFromType B p)
  | 2 => some (ascFromExt B p)
  | 3 => some (ascFromIndex B p)
  | 4 => some (ascFromRate B p)
  | 5 => some (ascFromChannels B p rate)
  | _ => none

/-- How many steps of its own the decoder agent takes for the input `B` (41_config_decoder.md R171). -/
def ascSteps (B : List Byte) : Nat :=
  match readField B 0 5 with
  | none => 1
  | some baseType =>
    if baseType = 31 then 2
    else if baseType ≠ 2 then 1
    else
      match readField B 5 4 with
      | none => 2
      | some freqIdx =>
        if freqIdx = 13 ∨ freqIdx = 14 then 2
        else if freqIdx ≠ 15 then 3
        else
          match readField B 9 24 with
          | none => 3
          | some _ => 4

/-- The result the host reads from the registers (42_host_interface.md R215): nothing unless
`DONE = 1`. -/
def hostResult (s : State) : Option AscResult :=
  if s.done then
    (if s.kind = 0#3 then some (.ok ⟨.aacLc, s.resRate, s.resCh⟩)
    else (kindOfCode s.kind).map (fun k => .err k s.errval))
  else none

/-- The bytes of a field list, most significant bit first, followed by 0 bits up to the next byte
boundary: the notation `asc(…)` of 30_encoding.md R108. `fields` lists (width, value). -/
def ascBits : List (Nat × Nat) → List Bool
  | [] => []
  | (n, v) :: fs => (List.range n).map (fun j => v.testBit (n - 1 - j)) ++ ascBits fs

/-- The bytes of a bit list, padded with 0 bits (30_encoding.md R108). -/
def packBits (bits : List Bool) : List Byte :=
  (List.range ((bits.length + 7) / 8)).map fun i =>
    BitVec.ofNat 8 (assembleBits (fun k => bits.getD k false) (8 * i) 8)

/-- `asc(aot=a, sfi=f, cc=c)` (30_encoding.md R108). -/
def ascTablePath (a f c : Nat) : List Byte := packBits (ascBits [(5, a), (4, f), (4, c)])

/-- `asc(aot=a, sfi=15, rate=r, cc=c)` (30_encoding.md R108). -/
def ascExplicitPath (a r c : Nat) : List Byte :=
  packBits (ascBits [(5, a), (4, 15), (24, r), (4, c)])

/-- `asc(aot=31, ext=e)` (30_encoding.md R108). -/
def ascExtendedPath (e : Nat) : List Byte := packBits (ascBits [(5, 31), (6, e)])

end Sys2Proof.Machine
end

