-- ==== Sys2Proof/Machine/System.lean ====
section
/-! DEFINITION. Several instances side by side (`NUM_INSTANCES`, 00_scope.md R8, 10_state.md R46), each
with its register window at a base the platform chooses (`REG_BASE`, 20_memory.md R70). -/

namespace Sys2Proof.Machine

/-- One instance at its base, which is its only identifier (60_exceptions.md R252). -/
structure Placed where
  /-- `REG_BASE`, the first address of its 256-byte window (20_memory.md R70). -/
  base : Nat
  block : State
  deriving DecidableEq, Repr

/-- The instances of a system (10_state.md R46). -/
abbrev System := List Placed

/-- The instance at `base` takes one step of its own; where none has this base nothing happens
(log entry 14). The first of equal bases is meant; a platform gives every instance its own. -/
def System.stepAt (base : Nat) : System → Host.Outcome System Fault Refusal
  | [] => .next []
  | p :: ps =>
    if p.base = base then
      match step p.block with
      | .next t => .next (⟨p.base, t⟩ :: ps)
      | .fault r => .fault r
      | .refused r => .refused r
    else
      match System.stepAt base ps with
      | .next ps' => .next (p :: ps')
      | .fault r => .fault r
      | .refused r => .refused r

/-- Address `addr` lies in the window of the instance at `base` (20_memory.md R70). -/
def inWindow (base addr : Nat) : Bool := decide (base ≤ addr ∧ addr < base + 256)

/-- The host presents one register access at a bus address: it becomes the next turn of the instance
whose window holds the address, at the offset from its base (20_memory.md R70, 30_encoding.md R104);
an address in no window reaches no instance (60_exceptions.md R251). -/
def System.present (addr : Nat) (wr : Bool) (data : Word) : System → System
  | [] => []
  | p :: ps =>
    if inWindow p.base addr then
      ⟨p.base, { p.block with
        turns := .host (hostWord wr (BitVec.ofNat 8 (addr - p.base)) data) :: p.block.turns }⟩ :: ps
    else p :: System.present addr wr data ps

end Sys2Proof.Machine
end

