-- ==== Sys2Proof/Safety.lean ====
section
/-! DEFINITION. What counts as a sound state of the block, in the terms the statements use. -/

namespace Sys2Proof.Safety

open Sys2Proof.Machine

/-- The input byte memory: canonical, and holding only byte registers the block has (10_state.md
R39). -/
def memoryOk (s : State) : Prop :=
  Memory.wf s.ibuf = true ∧ ∀ c ∈ s.ibuf, c.1 < s.ibufBytes

/-- Where the cursor stands at each code of `STATE` (41_config_decoder.md R160 to R164). -/
def cursorOk (s : State) : Prop :=
  (s.state = Fsm.sAot → s.pos = 0#6) ∧
  (s.state = Fsm.sAotExt → s.pos = 5#6) ∧
  (s.state = Fsm.sSfi → s.pos = 5#6) ∧
  (s.state = Fsm.sRate → s.pos = 9#6) ∧
  (s.state = Fsm.sCc → s.pos = 9#6 ∨ s.pos = 33#6) ∧
  s.pos.toNat ≤ 37

/-- Every result and error register is 0 (10_state.md R33 to R37). -/
def resultsClear (s : State) : Prop :=
  s.kind = 0#3 ∧ s.errval = 0#7 ∧ s.resAot = 0#7 ∧ s.resRate = 0#24 ∧ s.resCh = 0#4

/-- The channel counts a record can hold (10_state.md R26). -/
def channelCountOk (ch : BitVec 4) : Prop := (1 ≤ ch.toNat ∧ ch.toNat ≤ 6) ∨ ch = 8#4

/-- The payloads of each error kind (10_state.md R28). -/
def payloadOk (kind : BitVec 3) (v : BitVec 7) : Prop :=
  (kind = 1#3 ∧ v = 0#7) ∨
  (kind = 2#3 ∧ v.toNat ≤ 95 ∧ v ≠ 2#7 ∧ v ≠ 31#7) ∨
  (kind = 3#3 ∧ (v = 13#7 ∨ v = 14#7)) ∨
  (kind = 4#3 ∧ 8 ≤ v.toNat ∧ v.toNat ≤ 15) ∨
  (kind = 5#3 ∧ v = 0#7)

/-- The registers show one whole record (10_state.md R26). -/
def showsRecord (s : State) : Prop :=
  s.kind = 0#3 ∧ s.errval = 0#7 ∧ s.resAot = 2#7 ∧ channelCountOk s.resCh

/-- The registers show one error and no record (10_state.md R28, R35 to R37). -/
def showsError (s : State) : Prop :=
  payloadOk s.kind s.errval ∧ s.resAot = 0#7 ∧ s.resRate = 0#24 ∧ s.resCh = 0#4

/-- The invariant of the block. While a decode is in progress nothing is shown and the cursor is
inside the input; with `DONE = 1` exactly one whole record or one error is shown; before the first
completion nothing is. -/
structure BlockInv (s : State) : Prop where
  bytes : Config.ibufBytesMin ≤ s.ibufBytes ∧ s.ibufBytes ≤ Config.ibufBytesMax
  memory : memoryOk s
  stateCode : s.state.toNat ≤ 5
  cursor : cursorOk s
  whileBusy : s.state ≠ Fsm.idle →
    s.done = false ∧ resultsClear s ∧ s.pos.toNat ≤ 8 * s.ilen.toNat
  beforeDone : s.done = false → resultsClear s
  whenDone : s.done = true → showsRecord s ∨ showsError s

/-- No code that no rule writes (10_state.md R23, R27). -/
def legalCodes (s : State) : Prop := s.state.toNat ≤ 5 ∧ s.kind.toNat ≤ 5

/-- The transaction word is a START (30_encoding.md R105). -/
def isStart (w : HostAcc) : Prop :=
  hostW w = true ∧ hostOff w = 0x00#8 ∧ (hostData w).getLsbD 0 = true

/-- The next turn is the decoder agent's (log entry 1). -/
def decoderTurn (s : State) : Prop := s.turns = [] ∨ ∃ ts, s.turns = Turn.decoder :: ts

/-- The next turn is not the reset input's (70_reset_and_hazards.md R280). -/
def noResetTurn (s : State) : Prop := ∀ ts, s.turns ≠ Turn.rst :: ts

/-- A read of `n` bits finds its bits in the input and its bytes in the block, and leaves the cursor
in its 6 bits. -/
def canRead (n : Nat) (s : State) : Prop :=
  s.pos.toNat + n ≤ 8 * s.ilen.toNat ∧ s.pos.toNat + n ≤ 8 * s.ibufBytes ∧ s.pos.toNat + n < 64

/-- Fewer than `n` bits remain in the input (40_bit_reader.md R143). -/
def endOfInput (n : Nat) (s : State) : Prop := 8 * s.ilen.toNat < s.pos.toNat + n

/-- `s` with the cursor moved `n` bits on (40_bit_reader.md R140). -/
def afterRead (n : Nat) (s : State) : State := { s with pos := BitVec.ofNat 6 (s.pos.toNat + n) }

/-- The value of the next `n` bits of the input (20_memory.md R62). -/
def nextBits (n : Nat) (s : State) : Nat := fieldValue s.ibuf.read s.pos.toNat n

/-- `B` is the input the block holds: `ILEN` bytes, of which the first five stand in `IBUF`
(41_config_decoder.md R169). -/
def holdsInput (s : State) (B : List Byte) : Prop :=
  B.length = s.ilen.toNat ∧ ∀ i, i < min B.length 5 → s.ibuf.read i = B.getD i 0#8

/-- The decode read the channel configuration: it ends in a record or in one of that field's two errors
(41_config_decoder.md R164). -/
def endsAtChannels (r : AscResult) : Prop :=
  (∃ rec, r = .ok rec) ∨ (∃ v, r = .err .invalidCc v) ∨ ∃ v, r = .err .ccNotSupported v

end Sys2Proof.Safety
end

