-- ==== Sys2Proof/WellFormed.lean ====
section
/-! DEFINITION. When an instruction's operands are ones its row admits, for a block with `ib` input
byte registers (`IBUF_BYTES`, 00_scope.md R8). -/

namespace Sys2Proof

/-- `off` is the offset of one of the `ib` input byte registers (10_state.md R30). -/
def WellFormed.isIbufOffset (ib : Nat) (off : BitVec 8) : Bool :=
  decide (0x20 ≤ off.toNat ∧ off.toNat % 4 = 0 ∧ (off.toNat - 0x20) / 4 < ib)

/-- `off` is an offset some read row other than `RD_RESERVED` answers (30_encoding.md R105). -/
def WellFormed.isReadOffset (ib : Nat) (off : BitVec 8) : Bool :=
  decide (off.toNat % 4 = 0 ∧ off.toNat ≤ 0x18) || WellFormed.isIbufOffset ib off

/-- `off` is an offset some write row other than `WR_IGNORED` answers (30_encoding.md R105). -/
def WellFormed.isWriteOffset (ib : Nat) (off : BitVec 8) : Bool :=
  decide (off.toNat = 0x00 ∨ off.toNat = 0x18) || WellFormed.isIbufOffset ib off

/-- `i` is the index of an input byte register inside the 256-byte window (10_state.md R39). -/
def WellFormed.isIbufIndex (ib : Nat) (i : BitVec 6) : Bool :=
  decide (i.toNat < ib ∧ i.toNat < Config.ibufBytesMax)

/-- The operands are ones the row admits: the constraints of spec/opcode_table.json. -/
def Instr.wellFormed (ib : Nat) : Instr → Bool
  | .readbits n => decide (1 ≤ n.toNat ∧ n.toNat ≤ Config.readMax)
  | .start data => data.getLsbD 0
  | .wrCtrlNop data => !data.getLsbD 0
  | .wrIbuf i _ => WellFormed.isIbufIndex ib i
  | .rdIbuf i _ => WellFormed.isIbufIndex ib i
  | .rdReserved off _ => !WellFormed.isReadOffset ib off
  | .wrIgnored off _ => !WellFormed.isWriteOffset ib off
  | .aotUnsupported baseType => decide (baseType ≠ 2 ∧ baseType ≠ 31)
  | .idle | .sAot | .sAotExt | .sSfi | .sRate | .sCc => true
  | .wrIlen _ | .rdStatus _ | .rdErrval _ | .rdResAot _ | .rdResRate _ | .rdResCh _ | .rdIlen _
  | .rdCtrl _ => true
  | .aotLc | .aotEscape | .aotExt _ => true
  | .sfi0 | .sfi1 | .sfi2 | .sfi3 | .sfi4 | .sfi5 | .sfi6 | .sfi7 | .sfi8 | .sfi9 | .sfi10 | .sfi11
  | .sfi12 | .sfiRsv13 | .sfiRsv14 | .sfiExplicit | .rateExplicit _ => true
  | .ccPce | .cc1 | .cc2 | .cc3 | .cc4 | .cc5 | .cc6 | .cc7 | .ccRsv8 | .ccRsv9 | .ccRsv10
  | .ccRsv11 | .ccRsv12 | .ccRsv13 | .ccRsv14 | .ccRsv15 => true

end Sys2Proof
end

