-- ==== Sys2Proof/Certificates/Slice0/Obligations.lean ====
section
/-! DEFINITION. The statements for the provers, from the numbered rules of spec/. -/

open Sys2Proof Sys2Proof.Machine Sys2Proof.Safety

/-! ### Encodings -/

/-- Decoding the word of a well-formed instruction gives it back: every row of the opcode table, every
operand value, every `IBUF_BYTES`. -/
def Obligations.DecodeOfEncode : Prop :=
  ∀ (ib : Nat) (i : Instr), i.wellFormed ib = true → decode ib (encode i) = .ok i

/-- The other direction: a word that decodes has a well-formed instruction, whose word it is. -/
def Obligations.EncodeOfDecode : Prop :=
  ∀ (ib : Nat) (c : Code) (i : Instr), decode ib c = .ok i → i.wellFormed ib = true ∧ encode i = c

/-- Only four kinds of word are refused: `STATE` codes 6 and 7, and read widths 0 and above 32 (the
model's names for what 30_encoding.md section 6 and 41_config_decoder.md section 1 leave without a
step; log entry 12). -/
def Obligations.DecodeRefusesOnlyNamedWords : Prop :=
  ∀ (ib : Nat) (c : Code),
    (∃ i, decode ib c = .ok i) ∨
    (∃ st : BitVec 3, c = .fsmstate st ∧ 6 ≤ st.toNat ∧ decode ib c = .error (.noSuchState st)) ∨
    (∃ n : BitVec 6, c = .rdreq n ∧ (n = 0#6 ∨ 32 < n.toNat) ∧ decode ib c = .error (.readWidth n))

/-- The host access map, R105, row by row: the row each transaction word selects, by `W` and `OFF`;
every transaction word is one of these. -/
def Obligations.HostAccessMap : Prop :=
  ∀ (ib : Nat) (data : Word),
    (data.getLsbD 0 = true → decodeHost ib (hostWord true 0x00#8 data) = .start data) ∧
    (data.getLsbD 0 = false → decodeHost ib (hostWord true 0x00#8 data) = .wrCtrlNop data) ∧
    decodeHost ib (hostWord true 0x18#8 data) = .wrIlen data ∧
    (∀ i : BitVec 6, i.toNat < ib → i.toNat < 56 →
      decodeHost ib (hostWord true (BitVec.ofNat 8 (0x20 + 4 * i.toNat)) data) = .wrIbuf i data) ∧
    decodeHost ib (hostWord false 0x04#8 data) = .rdStatus data ∧
    decodeHost ib (hostWord false 0x08#8 data) = .rdErrval data ∧
    decodeHost ib (hostWord false 0x0C#8 data) = .rdResAot data ∧
    decodeHost ib (hostWord false 0x10#8 data) = .rdResRate data ∧
    decodeHost ib (hostWord false 0x14#8 data) = .rdResCh data ∧
    decodeHost ib (hostWord false 0x18#8 data) = .rdIlen data ∧
    (∀ i : BitVec 6, i.toNat < ib → i.toNat < 56 →
      decodeHost ib (hostWord false (BitVec.ofNat 8 (0x20 + 4 * i.toNat)) data) = .rdIbuf i data) ∧
    decodeHost ib (hostWord false 0x00#8 data) = .rdCtrl data ∧
    (∀ off : BitVec 8,
      off ∉ [0x00#8, 0x04#8, 0x08#8, 0x0C#8, 0x10#8, 0x14#8, 0x18#8] →
      (∀ i : Nat, i < ib → off.toNat ≠ 0x20 + 4 * i) →
      decodeHost ib (hostWord false off data) = .rdReserved off data) ∧
    (∀ off : BitVec 8, off ∉ [0x00#8, 0x18#8] → (∀ i : Nat, i < ib → off.toNat ≠ 0x20 + 4 * i) →
      decodeHost ib (hostWord true off data) = .wrIgnored off data) ∧
    (∀ w : HostAcc, hostWord (hostW w) (hostOff w) (hostData w) = w)

/-- A few words written out from the encodings, at least one of each format but the Bit Reader
request's (sanity). -/
def Obligations.SampleWordsDecode : Prop :=
  decode 8 (.hostacc 0x10000000001#41) = .ok (.start 1#32) ∧
  decode 8 (.hostacc 0x12400000090#41) = .ok (.wrIbuf 1#6 0x90#32) ∧
  decode 8 (.fsmstate 3#3) = .ok .sSfi ∧
  decode 8 (.aot5 31#5) = .ok .aotEscape ∧
  decode 8 (.aotext 63#6) = .ok (.aotExt 63#6) ∧
  decode 8 (.sfi4 12#4) = .ok .sfi12 ∧
  decode 8 (.sfix 48000#24) = .ok (.rateExplicit 48000#24) ∧
  decode 8 (.cc4 7#4) = .ok .cc7

/-! ### The input bits -/

/-- `StreamBit(k) = (B[k div 8] >> (7 - (k mod 8))) & 1`, R10, in arithmetic on the byte's number. -/
def Obligations.StreamBitIsMsbFirst : Prop :=
  ∀ (byteAt : Nat → Byte) (k : Nat),
    (streamBit byteAt k).toNat = ((byteAt (k / 8)).toNat >>> (7 - k % 8)) % 2

/-- A field's value is the weighted sum of its stream bits, and it is zero-extended: a holder of at
least the field's width holds exactly that number, R92. -/
def Obligations.FieldIsWeightedSum : Prop :=
  ∀ (byteAt : Nat → Byte) (p n : Nat),
    fieldValue byteAt p n =
      ∑ j ∈ Finset.range n, (streamBit byteAt (p + j)).toNat * 2 ^ (n - 1 - j) ∧
    ∀ w, n ≤ w → (BitVec.ofNat w (fieldValue byteAt p n)).toNat = fieldValue byteAt p n

/-- The closed form over the 40-bit big-endian word of the first five bytes (the spec's own derived
rule, 40_bit_reader.md, "Equivalent closed form"). -/
def Obligations.FieldClosedForm : Prop :=
  ∀ (byteAt : Nat → Byte) (p n : Nat), p + n ≤ 40 →
    fieldValue byteAt p n =
      (((byteAt 0).toNat * 2 ^ 32 + (byteAt 1).toNat * 2 ^ 24 + (byteAt 2).toNat * 2 ^ 16 +
        (byteAt 3).toNat * 2 ^ 8 + (byteAt 4).toNat) >>> (40 - p - n)) % 2 ^ n

/-! ### The Bit Reader -/

/-- `READBITS` writes only `POS`, only on success: with the bits there it reports their value and
moves the cursor; with fewer bits left it reports end of input and changes nothing else. The two
cases with bytes missing in the block, or a cursor beyond 63, are the model's (log entries 6, 7):
`ReadBitsOutsideTheBlock`. The report stands in the model's own `bitOut`. -/
def Obligations.ReadBitsWritesOnlyTheCursor : Prop :=
  ∀ (n : BitVec 6) (s : State), 1 ≤ n.toNat → n.toNat ≤ 32 →
    (canRead n.toNat s →
      exec (.readbits n) s = .next { s with
        pos := BitVec.ofNat 6 (s.pos.toNat + n.toNat)
        bitOut := some (.value (BitVec.ofNat 32 (nextBits n.toNat s))) } ∧
      nextBits n.toNat s < 2 ^ n.toNat) ∧
    (endOfInput n.toNat s →
      exec (.readbits n) s = .next { s with bitOut := some .endOfInput }) ∧
    (∀ t, exec (.readbits n) s = .next t →
      t = { s with pos := t.pos, bitOut := t.bitOut } ∧
      (t.bitOut = some .endOfInput → t.pos = s.pos))

/-- A read whose bytes the block does not have faults; a read that would move the cursor above 63
reports its value and leaves in `POS` a value nothing constrains (the model's choices, log entries 6
and 7: the spec states neither, no decode does either). -/
def Obligations.ReadBitsOutsideTheBlock : Prop :=
  ∀ (n : BitVec 6) (s : State), 1 ≤ n.toNat → n.toNat ≤ 32 →
    s.pos.toNat + n.toNat ≤ 8 * s.ilen.toNat →
    (8 * s.ibufBytes < s.pos.toNat + n.toNat →
      exec (.readbits n) s = .fault (.noInputByte ((s.pos.toNat + n.toNat - 1) / 8))) ∧
    (s.pos.toNat + n.toNat ≤ 8 * s.ibufBytes → 64 ≤ s.pos.toNat + n.toNat →
      ∃ p : BitVec 6, exec (.readbits n) s = .next { s with
        pos := p
        bitOut := some (.value (BitVec.ofNat 32 (nextBits n.toNat s))) })

/-- A width outside 1..32 is refused by name (40_bit_reader.md, width range; 92_eei_decisions.md D22;
log entry 12). -/
def Obligations.ReadWidthRefused : Prop :=
  ∀ (n : BitVec 6) (s : State), n = 0#6 ∨ 32 < n.toNat →
    exec (.readbits n) s = .refused (.readWidth n)

/-! ### The decoder's steps -/

/-- `IDLE` (41_config_decoder.md section 1): the decoder agent changes nothing, only a START leaves
`IDLE`, `STATE` codes 6 and 7 are never written and a state holding one is refused. Beside that: a state
with `KIND` 6 or 7 is refused too (92_eei_decisions.md D28; log entry 12), and, the model's choice, the
decoder agent's turn in `IDLE` passes (log entry 1). -/
def Obligations.IdleOnlyStartLeaves : Prop :=
  (∀ s : State, exec .idle s = .next s) ∧
  (∀ s : State, legalCodes s → s.state = Fsm.idle → decoderTurn s →
    step s = .next { s with turns := s.turns.tail }) ∧
  (∀ s t : State, s.state = Fsm.idle → step s = .next t → t.state ≠ Fsm.idle →
    ∃ w ts, s.turns = Turn.host w :: ts ∧ isStart w) ∧
  (∀ s : State, 6 ≤ s.state.toNat → step s = .refused (.unreachableState s.state)) ∧
  (∀ s : State, s.state.toNat ≤ 5 → 6 ≤ s.kind.toNat → step s = .refused (.unreachableKind s.kind)) ∧
  (∀ s t : State, step s = .next t → t.state.toNat ≤ 5)

/-- `S_AOT`, R160: where the field's bits and bytes are there (`canRead`), or past the end of the input
(`endOfInput`), the 5-bit type is read and checked; every register written, and no other. -/
def Obligations.AotStep : Prop :=
  ∀ s : State,
    (endOfInput 5 s → exec .sAot s = .next { s with
      kind := 1#3, errval := 0#7, done := true, state := 0#3 }) ∧
    (canRead 5 s → nextBits 5 s = 31 → exec .sAot s = .next { s with
      pos := BitVec.ofNat 6 (s.pos.toNat + 5), state := 2#3 }) ∧
    (canRead 5 s → nextBits 5 s = 2 → exec .sAot s = .next { s with
      pos := BitVec.ofNat 6 (s.pos.toNat + 5), state := 3#3 }) ∧
    (canRead 5 s → nextBits 5 s ≠ 31 → nextBits 5 s ≠ 2 → exec .sAot s = .next { s with
      pos := BitVec.ofNat 6 (s.pos.toNat + 5)
      kind := 2#3, errval := BitVec.ofNat 7 (nextBits 5 s), done := true, state := 0#3 }) ∧
    (s.pos = 0#6 → (endOfInput 5 s ↔ s.ilen = 0#8))

/-- `S_AOT_EXT`, R161: where the field's bits and bytes are there, or past the end of the input, the
6-bit extension is read; every value fails with payload `32 + ext`. -/
def Obligations.AotExtStep : Prop :=
  ∀ s : State,
    (endOfInput 6 s → exec .sAotExt s = .next { s with
      kind := 1#3, errval := 0#7, done := true, state := 0#3 }) ∧
    (canRead 6 s → exec .sAotExt s = .next { s with
      pos := BitVec.ofNat 6 (s.pos.toNat + 6)
      kind := 2#3, errval := BitVec.ofNat 7 (32 + nextBits 6 s), done := true, state := 0#3 }) ∧
    (canRead 6 s → (BitVec.ofNat 7 (32 + nextBits 6 s)).toNat = 32 + nextBits 6 s) ∧
    (s.pos = 5#6 → (endOfInput 6 s ↔ s.ilen.toNat ≤ 1))

/-- `S_SFI`, R162: where the field's bits and bytes are there, or past the end of the input, the 4-bit
index is read, checked and looked up in `SFI_TABLE`. -/
def Obligations.SfiStep : Prop :=
  ∀ s : State,
    (endOfInput 4 s → exec .sSfi s = .next { s with
      kind := 1#3, errval := 0#7, done := true, state := 0#3 }) ∧
    (canRead 4 s → nextBits 4 s = 15 → exec .sSfi s = .next { s with
      pos := BitVec.ofNat 6 (s.pos.toNat + 4), state := 4#3 }) ∧
    (canRead 4 s → nextBits 4 s = 13 ∨ nextBits 4 s = 14 → exec .sSfi s = .next { s with
      pos := BitVec.ofNat 6 (s.pos.toNat + 4)
      kind := 3#3, errval := BitVec.ofNat 7 (nextBits 4 s), done := true, state := 0#3 }) ∧
    (canRead 4 s → nextBits 4 s ≤ 12 → exec .sSfi s = .next { s with
      pos := BitVec.ofNat 6 (s.pos.toNat + 4)
      lRate := sfiRate (nextBits 4 s), state := 5#3 }) ∧
    (s.pos = 5#6 → (endOfInput 4 s ↔ s.ilen.toNat ≤ 1))

/-- `S_RATE`, R163: where the field's bits and bytes are there, or past the end of the input, the 24-bit
rate is latched as it is, unchecked. -/
def Obligations.RateStep : Prop :=
  ∀ s : State,
    (endOfInput 24 s → exec .sRate s = .next { s with
      kind := 1#3, errval := 0#7, done := true, state := 0#3 }) ∧
    (canRead 24 s → exec .sRate s = .next { s with
      pos := BitVec.ofNat 6 (s.pos.toNat + 24)
      lRate := BitVec.ofNat 24 (nextBits 24 s), state := 5#3 }) ∧
    (canRead 24 s → (BitVec.ofNat 24 (nextBits 24 s)).toNat = nextBits 24 s) ∧
    (s.pos = 9#6 → (endOfInput 24 s ↔ s.ilen.toNat ≤ 4))

/-- `S_CC`, R164: where the field's bits and bytes are there, or past the end of the input, the 4-bit
channel configuration is read and the decode completes. That its end of input never happens is an inference the spec marks as its own: `ChannelFieldNeverShort`. -/
def Obligations.CcStep : Prop :=
  ∀ s : State,
    (endOfInput 4 s → exec .sCc s = .next { s with
      kind := 1#3, errval := 0#7, done := true, state := 0#3 }) ∧
    (canRead 4 s → nextBits 4 s = 0 → exec .sCc s = .next { s with
      pos := BitVec.ofNat 6 (s.pos.toNat + 4)
      kind := 5#3, errval := 0#7, done := true, state := 0#3 }) ∧
    (canRead 4 s → 1 ≤ nextBits 4 s → nextBits 4 s ≤ 6 → exec .sCc s = .next { s with
      pos := BitVec.ofNat 6 (s.pos.toNat + 4)
      resAot := 2#7, resRate := s.lRate, resCh := BitVec.ofNat 4 (nextBits 4 s)
      kind := 0#3, errval := 0#7, done := true, state := 0#3 }) ∧
    (canRead 4 s → nextBits 4 s = 7 → exec .sCc s = .next { s with
      pos := BitVec.ofNat 6 (s.pos.toNat + 4)
      resAot := 2#7, resRate := s.lRate, resCh := 8#4
      kind := 0#3, errval := 0#7, done := true, state := 0#3 }) ∧
    (canRead 4 s → 8 ≤ nextBits 4 s → exec .sCc s = .next { s with
      pos := BitVec.ofNat 6 (s.pos.toNat + 4)
      kind := 4#3, errval := BitVec.ofNat 7 (nextBits 4 s), done := true, state := 0#3 })

/-- End of input never happens at the channel configuration (the spec's derived rule, 30_encoding.md
section 4; 90_conflicts.md C6): in every state that meets the invariant and stands at `S_CC` the four
bits and their bytes are there. -/
def Obligations.ChannelFieldNeverShort : Prop :=
  ∀ s : State, BlockInv s → s.state = Fsm.sCc → ¬ endOfInput 4 s ∧ canRead 4 s

/-- A decoder step runs the instruction its field decodes to, on the state with the cursor past the
field: so the statements about field rows reach a run (41_config_decoder.md section 1; log entry 4).
Where the cursor would pass 63 it holds a value nothing constrains (log entry 7). -/
def Obligations.DecoderStepRunsFieldRow : Prop :=
  ∀ (n : Nat) (s : State),
    s.pos.toNat + n ≤ 8 * s.ilen.toNat → s.pos.toNat + n ≤ 8 * s.ibufBytes →
    ∃ p : BitVec 6, (s.pos.toNat + n < 64 → p.toNat = s.pos.toNat + n) ∧
      (n = 5 →
        exec .sAot s = exec (decodeAot5 (BitVec.ofNat 5 (nextBits n s))) { s with pos := p }) ∧
      (n = 6 →
        exec .sAotExt s = exec (.aotExt (BitVec.ofNat 6 (nextBits n s))) { s with pos := p }) ∧
      (n = 4 →
        exec .sSfi s = exec (decodeSfi4 (BitVec.ofNat 4 (nextBits n s))) { s with pos := p }) ∧
      (n = 24 →
        exec .sRate s = exec (.rateExplicit (BitVec.ofNat 24 (nextBits n s))) { s with pos := p }) ∧
      (n = 4 →
        exec .sCc s = exec (decodeCc4 (BitVec.ofNat 4 (nextBits n s))) { s with pos := p })

/-- A decoder step whose field needs a byte register the block does not have faults (the model's
choice, log entry 6: the spec has no such byte to read; no decode gets there). -/
def Obligations.DecoderStepOutsideTheBlock : Prop :=
  ∀ (i : Instr) (n : Nat) (s : State),
    (i, n) ∈ [(Instr.sAot, 5), (Instr.sAotExt, 6), (Instr.sSfi, 4), (Instr.sRate, 24), (Instr.sCc, 4)] →
    s.pos.toNat + n ≤ 8 * s.ilen.toNat → 8 * s.ibufBytes < s.pos.toNat + n →
    exec i s = .fault (.noInputByte ((s.pos.toNat + n - 1) / 8))

/-! ### The field values -/

/-- The values of `baseType`, R94: each value's row and its action; the next field is the one the new
`STATE` code reads, and the extended type is `32 + ext`. -/
def Obligations.BaseTypeActions : Prop :=
  ∀ s : State,
    (decodeAot5 2#5 = .aotLc ∧ exec .aotLc s = .next { s with state := 3#3 }) ∧
    (decodeAot5 31#5 = .aotEscape ∧ exec .aotEscape s = .next { s with state := 2#3 }) ∧
    (decode s.ibufBytes (.fsmstate 3#3) = .ok .sSfi ∧
      decode s.ibufBytes (.fsmstate 2#3) = .ok .sAotExt ∧
      ∀ e : BitVec 6, (extendedType e).toNat = 32 + e.toNat) ∧
    (∀ v : BitVec 5, v ≠ 2#5 → v ≠ 31#5 → decodeAot5 v = .aotUnsupported v ∧
      exec (.aotUnsupported v) s = .next { s with
        kind := 2#3, errval := BitVec.ofNat 7 v.toNat, done := true, state := 0#3 })

/-- The values of `ext` (the spec's derived rule, 30_encoding.md section 2): every value fails with
payload `32 + ext`. -/
def Obligations.ExtActions : Prop :=
  ∀ (v : BitVec 6) (s : State),
    decode s.ibufBytes (.aotext v) = .ok (.aotExt v) ∧
    exec (.aotExt v) s = .next { s with
      kind := 2#3, errval := BitVec.ofNat 7 (32 + v.toNat), done := true, state := 0#3 }

/-- The values of `freqIdx`, R96: each value's row and its action; the next field is the one the new
`STATE` code reads. -/
def Obligations.FreqIdxActions : Prop :=
  (∀ (i : Instr) (k : Nat) (s : State),
    (i, k) ∈ [(Instr.sfi0, 0), (Instr.sfi1, 1), (Instr.sfi2, 2), (Instr.sfi3, 3), (Instr.sfi4, 4),
      (Instr.sfi5, 5), (Instr.sfi6, 6), (Instr.sfi7, 7), (Instr.sfi8, 8), (Instr.sfi9, 9),
      (Instr.sfi10, 10), (Instr.sfi11, 11), (Instr.sfi12, 12)] →
    decodeSfi4 (BitVec.ofNat 4 k) = i ∧
    exec i s = .next { s with lRate := sfiRate k, state := 5#3 }) ∧
  (∀ (i : Instr) (k : Nat) (s : State), (i, k) ∈ [(Instr.sfiRsv13, 13), (Instr.sfiRsv14, 14)] →
    decodeSfi4 (BitVec.ofNat 4 k) = i ∧
    exec i s = .next { s with
      kind := 3#3, errval := BitVec.ofNat 7 k, done := true, state := 0#3 }) ∧
  (∀ s : State, decodeSfi4 15#4 = .sfiExplicit ∧
    exec .sfiExplicit s = .next { s with state := 4#3 }) ∧
  (∀ s : State, decode s.ibufBytes (.fsmstate 5#3) = .ok .sCc ∧
    decode s.ibufBytes (.fsmstate 4#3) = .ok .sRate)

/-- The 13 entries of `SFI_TABLE`. Entries 1, 2 and 5 to 11 are marked by the spec itself as from
general knowledge (30_encoding.md section 2, 93_implementation_defined.md K1; log entry 9). -/
def Obligations.SfiTableEntries : Prop :=
  (List.range 13).map (fun k => (sfiRate k).toNat) =
    [96000, 88200, 64000, 48000, 44100, 32000, 24000, 22050, 16000, 12000, 11025, 8000, 7350]

/-- The explicit rate, R98: every value is the rate itself. -/
def Obligations.ExplicitRateActions : Prop :=
  ∀ (v : Rate) (s : State),
    decode s.ibufBytes (.sfix v) = .ok (.rateExplicit v) ∧
    exec (.rateExplicit v) s = .next { s with lRate := v, state := 5#3 }

/-- The values of `chanCfg`, R99: each value's row and its action; the record's rate is the latched
one. -/
def Obligations.ChanCfgActions : Prop :=
  (∀ s : State, decodeCc4 0#4 = .ccPce ∧ exec .ccPce s = .next { s with
    kind := 5#3, errval := 0#7, done := true, state := 0#3 }) ∧
  (∀ (i : Instr) (k ch : Nat) (s : State),
    (i, k, ch) ∈ [(Instr.cc1, 1, 1), (Instr.cc2, 2, 2), (Instr.cc3, 3, 3), (Instr.cc4, 4, 4),
      (Instr.cc5, 5, 5), (Instr.cc6, 6, 6), (Instr.cc7, 7, 8)] →
    decodeCc4 (BitVec.ofNat 4 k) = i ∧
    exec i s = .next { s with
      resAot := 2#7, resRate := s.lRate, resCh := BitVec.ofNat 4 ch
      kind := 0#3, errval := 0#7, done := true, state := 0#3 }) ∧
  (∀ (i : Instr) (k : Nat) (s : State),
    (i, k) ∈ [(Instr.ccRsv8, 8), (Instr.ccRsv9, 9), (Instr.ccRsv10, 10), (Instr.ccRsv11, 11),
      (Instr.ccRsv12, 12), (Instr.ccRsv13, 13), (Instr.ccRsv14, 14), (Instr.ccRsv15, 15)] →
    decodeCc4 (BitVec.ofNat 4 k) = i ∧
    exec i s = .next { s with
      kind := 4#3, errval := BitVec.ofNat 7 k, done := true, state := 0#3 })

/-! ### The host accesses -/

/-- `START` begins a decode when idle, R201, and is ignored while busy; other writes of `CTRL` start
nothing, R202. -/
def Obligations.StartAndControlWrites : Prop :=
  ∀ (data : Word) (s : State),
    (s.state = Fsm.idle → exec (.start data) s = .next { s with
      pos := 0#6, lRate := 0#24, done := false, kind := 0#3, errval := 0#7
      resAot := 0#7, resRate := 0#24, resCh := 0#4, state := 1#3 }) ∧
    (s.state ≠ Fsm.idle → exec (.start data) s = .next s) ∧
    exec (.wrCtrlNop data) s = .next s

/-- `WR_ILEN`, R203: the low byte of the data when idle, ignored while busy. -/
def Obligations.WriteInputLength : Prop :=
  ∀ (data : Word) (s : State),
    (s.state = Fsm.idle → exec (.wrIlen data) s = .next { s with
      ilen := BitVec.ofNat 8 (data.toNat % 256) }) ∧
    (s.state ≠ Fsm.idle → exec (.wrIlen data) s = .next s)

/-- `WR_IBUF`, R204: byte `i` becomes the low byte of the data and every other byte reads as before;
ignored while busy. -/
def Obligations.WriteInputByte : Prop :=
  ∀ (i : BitVec 6) (data : Word) (s : State), memoryOk s → i.toNat < s.ibufBytes →
    (s.state = Fsm.idle → ∃ m, exec (.wrIbuf i data) s = .next { s with ibuf := m } ∧
      m.read i.toNat = BitVec.ofNat 8 (data.toNat % 256) ∧
      ∀ j, j ≠ i.toNat → m.read j = s.ibuf.read j) ∧
    (s.state ≠ Fsm.idle → exec (.wrIbuf i data) s = .next s)

/-- An input byte register the block does not have is no register: the model stops (log entry 6). No
transaction word selects one. -/
def Obligations.NoSuchInputByte : Prop :=
  (∀ (i : BitVec 6) (data : Word) (s : State), s.ibufBytes ≤ i.toNat →
    (s.state = Fsm.idle → exec (.wrIbuf i data) s = .fault (.noInputByte i.toNat)) ∧
    (s.state ≠ Fsm.idle → exec (.wrIbuf i data) s = .next s) ∧
    exec (.rdIbuf i data) s = .fault (.noInputByte i.toNat)) ∧
  (∀ (ib : Nat) (w : HostAcc) (i : BitVec 6) (data : Word),
    decodeHost ib w = .wrIbuf i data ∨ decodeHost ib w = .rdIbuf i data → i.toNat < ib)

/-- `RD_STATUS`, R205: KIND at `[6:4]`, DONE at `[1]`, BUSY at `[0]`, every other bit 0; nothing in
the block changes. In every state that meets the invariant the value is 1 while a decode is in
progress. -/
def Obligations.ReadStatus : Prop :=
  ∀ (data : Word) (s : State), ∃ v : Word,
    exec (.rdStatus data) s = .next { s with hostRead := some v } ∧
    v.toNat = 16 * s.kind.toNat + 2 * s.done.toNat + (if s.state = Fsm.idle then 0 else 1) ∧
    (BlockInv s → s.state ≠ Fsm.idle → v = 1#32)

/-- The other reads, R206 to R213: each returns its register, zero-extended, and changes nothing in
the block. In every state that meets the invariant the error payload is 0 but for the three kinds that
have one, and the record's registers are 0 but after a successful decode. -/
def Obligations.ReadRegisters : Prop :=
  ∀ (data : Word) (s : State),
    exec (.rdErrval data) s = .next { s with hostRead := some (BitVec.ofNat 32 s.errval.toNat) } ∧
    exec (.rdResAot data) s = .next { s with hostRead := some (BitVec.ofNat 32 s.resAot.toNat) } ∧
    exec (.rdResRate data) s = .next { s with hostRead := some (BitVec.ofNat 32 s.resRate.toNat) } ∧
    exec (.rdResCh data) s = .next { s with hostRead := some (BitVec.ofNat 32 s.resCh.toNat) } ∧
    exec (.rdIlen data) s = .next { s with hostRead := some (BitVec.ofNat 32 s.ilen.toNat) } ∧
    (∀ i : BitVec 6, i.toNat < s.ibufBytes → exec (.rdIbuf i data) s = .next { s with
      hostRead := some (BitVec.ofNat 32 (s.ibuf.read i.toNat).toNat) }) ∧
    exec (.rdCtrl data) s = .next { s with hostRead := some 0#32 } ∧
    (∀ off, exec (.rdReserved off data) s = .next { s with hostRead := some 0#32 }) ∧
    (BlockInv s →
      (s.done = false ∨ s.kind = 0#3 ∨ s.kind = 1#3 ∨ s.kind = 5#3 → s.errval = 0#7) ∧
      (s.done = true ∧ s.kind = 0#3 → s.resAot = 2#7) ∧
      (¬ (s.done = true ∧ s.kind = 0#3) → s.resAot = 0#7 ∧ s.resRate = 0#24 ∧ s.resCh = 0#4) ∧
      s.resCh ≠ 7#4)

/-- Reserved and read-only offsets, R213 and R214, as a run sees them: a read of a reserved offset
returns 0; a write of any offset but 0x00, 0x18 and the input bytes changes nothing. -/
def Obligations.ReservedOffsets : Prop :=
  (∀ (off : BitVec 8) (data : Word) (s : State), exec (.wrIgnored off data) s = .next s) ∧
  (∀ (off : BitVec 8) (data : Word) (ts : List Turn) (s : State), legalCodes s →
    (∀ i : Nat, i < s.ibufBytes → off.toNat ≠ 0x20 + 4 * i) →
    (off ∉ [0x00#8, 0x04#8, 0x08#8, 0x0C#8, 0x10#8, 0x14#8, 0x18#8] →
      s.turns = Turn.host (hostWord false off data) :: ts →
      step s = .next { s with turns := ts, hostRead := some 0#32 }) ∧
    (off ∉ [0x00#8, 0x18#8] → s.turns = Turn.host (hostWord true off data) :: ts →
      step s = .next { s with turns := ts }))

/-- No host access raises an error or stalls: every one completes in its one step, whatever the
block's state (42_host_interface.md, common semantics), in every state holding legal codes. -/
def Obligations.HostAccessCompletes : Prop :=
  ∀ (w : HostAcc) (ts : List Turn) (s : State), legalCodes s → s.turns = Turn.host w :: ts →
    ∃ t, step s = .next t ∧ t.turns = ts

/-- Side effects, R69: a host read changes no element of the block; a host write that is not a START
while idle writes at most the register at its offset; a START while idle starts a decode; the reads
of a `READBITS` leave `IBUF` as it is. -/
def Obligations.HostAccessSideEffects : Prop :=
  ∀ (w : HostAcc) (ts : List Turn) (s t : State), s.turns = Turn.host w :: ts →
    step s = .next t →
    (hostW w = false → ∃ v, t = { s with turns := ts, hostRead := some v }) ∧
    (hostW w = true → ¬ (isStart w ∧ s.state = Fsm.idle) →
      t = { s with turns := ts, ilen := t.ilen, ibuf := t.ibuf } ∧
      (hostOff w ≠ 0x18#8 → t.ilen = s.ilen) ∧
      (∀ j, (hostOff w).toNat ≠ 0x20 + 4 * j → t.ibuf.read j = s.ibuf.read j)) ∧
    (isStart w → s.state = Fsm.idle → t.state = Fsm.sAot) ∧
    (∀ n u, exec (.readbits n) s = .next u → u.ibuf = s.ibuf)

/-- While a decode is in progress every host write is lost: not stalled, not queued, not applied later
(70_reset_and_hazards.md section 3, 42_host_interface.md). -/
def Obligations.WritesWhileBusyAreLost : Prop :=
  ∀ (w : HostAcc) (ts : List Turn) (s : State), legalCodes s → s.state ≠ Fsm.idle →
    hostW w = true → s.turns = Turn.host w :: ts → step s = .next { s with turns := ts }

/-- A result stays readable until the next START or reset: no other step changes `DONE`, `KIND`,
`ERRVAL` or a result register while `DONE = 1` and the block is idle (the spec's derived rule,
42_host_interface.md, "Visibility of a completion"). -/
def Obligations.ResultStaysUntilStart : Prop :=
  ∀ s t : State, s.state = Fsm.idle → noResetTurn s →
    (∀ w ts, s.turns = Turn.host w :: ts → ¬ isStart w) → step s = .next t →
    t.state = Fsm.idle ∧ t.done = s.done ∧ t.kind = s.kind ∧ t.errval = s.errval ∧
    t.resAot = s.resAot ∧ t.resRate = s.resRate ∧ t.resCh = s.resCh

/-! ### One step -/

/-- A step runs the decoded instruction: the head of the turns leaves the list, then `exec`. That a step
takes the head of the list, and that the decoder moves where the list is empty (`decoderTurn`), is the
model's choice, log entry 1. -/
def Obligations.StepRunsDecoded : Prop :=
  ∀ (s : State) (i : Instr), legalCodes s →
    (∀ w ts, s.turns = Turn.host w :: ts → decode s.ibufBytes (.hostacc w) = .ok i →
      step s = exec i { s with turns := ts }) ∧
    (decoderTurn s → decode s.ibufBytes (.fsmstate s.state) = .ok i →
      step s = exec i { s with turns := s.turns.tail })

/-- A transaction word placed for the next step is the one the next step runs. -/
def Obligations.PlacedHostWordRuns : Prop :=
  ∀ (w : HostAcc) (s : State), legalCodes s →
    step (s.withFetchWord 48 w.toNat) = exec (decodeHost s.ibufBytes w) s

/-- A field value placed for the next step is the one the next step reads and runs, at the state and
position of 30_encoding.md section 1 (the model's way to run a field row, log entry 13). -/
def Obligations.PlacedFieldRuns : Prop :=
  ∀ s : State, memoryOk s → 5 ≤ s.ibufBytes → s.kind.toNat ≤ 5 →
    (∀ v : BitVec 5, ∃ u, step (placeCode s (.aot5 v)) = exec (decodeAot5 v) u ∧ u.pos = 5#6) ∧
    (∀ v : BitVec 6, ∃ u, step (placeCode s (.aotext v)) = exec (.aotExt v) u ∧ u.pos = 11#6) ∧
    (∀ v : BitVec 4, ∃ u, step (placeCode s (.sfi4 v)) = exec (decodeSfi4 v) u ∧ u.pos = 9#6) ∧
    (∀ v : Rate, ∃ u, step (placeCode s (.sfix v)) = exec (.rateExplicit v) u ∧ u.pos = 33#6) ∧
    (∀ v : BitVec 4, ∃ u, step (placeCode s (.cc4 v)) = exec (decodeCc4 v) u ∧ u.pos = 13#6)

/-- The input is read-only to the decoder agent, R64. -/
def Obligations.DecoderNeverWritesInput : Prop :=
  (∀ s t : State, decoderTurn s → step s = .next t → t.ilen = s.ilen ∧ t.ibuf = s.ibuf) ∧
  (∀ (n : BitVec 6) (s t : State), exec (.readbits n) s = .next t →
    t.ilen = s.ilen ∧ t.ibuf = s.ibuf)

/-- The two flags, R42: a START from `IDLE` sets `BUSY` and clears `DONE`, the completing step clears
`BUSY` and sets `DONE`, no other step of the host or the decoder writes either; both are 0 after
reset. -/
def Obligations.FlagWrites : Prop :=
  (∀ s t : State, noResetTurn s → step s = .next t →
    (s.state = Fsm.idle ∧ (∃ w ts, s.turns = Turn.host w :: ts ∧ isStart w) ∧
      t.state ≠ Fsm.idle ∧ t.done = false) ∨
    (s.state ≠ Fsm.idle ∧ decoderTurn s ∧ t.state = Fsm.idle ∧ t.done = true) ∨
    ((t.state = Fsm.idle ↔ s.state = Fsm.idle) ∧ t.done = s.done)) ∧
  (∀ s t : State, ∀ w ts, s.turns = Turn.host w :: ts → isStart w → s.state = Fsm.idle →
    step s = .next t → t.state ≠ Fsm.idle ∧ t.done = false) ∧
  (∀ s t : State, ∀ ts, s.turns = Turn.rst :: ts → step s = .next t →
    t.state = Fsm.idle ∧ t.done = false)

/-! ### Reset -/

/-- Every element at its reset value, R43. -/
def Obligations.ResetValues : Prop :=
  State.reset.state = 0#3 ∧ State.reset.pos = 0#6 ∧ State.reset.lRate = 0#24 ∧
  State.reset.done = false ∧ busy State.reset = false ∧ State.reset.kind = 0#3 ∧
  State.reset.errval = 0#7 ∧ State.reset.resAot = 0#7 ∧ State.reset.resRate = 0#24 ∧
  State.reset.resCh = 0#4 ∧ State.reset.ilen = 0#8 ∧ ∀ i, State.reset.ibuf.read i = 0#8

/-- The reset input, R280, in every state holding legal codes, also during a decode: every element at
its reset value, no result recorded. `IBUF_BYTES`, the turns to come and what the host has read are
not elements of the block (log entry 2). -/
def Obligations.ResetInput : Prop :=
  ∀ (s : State) (ts : List Turn), legalCodes s → s.turns = Turn.rst :: ts →
    ∃ t, step s = .next t ∧
      t.state = 0#3 ∧ t.pos = 0#6 ∧ t.lRate = 0#24 ∧ t.done = false ∧ t.kind = 0#3 ∧
      t.errval = 0#7 ∧ t.resAot = 0#7 ∧ t.resRate = 0#24 ∧ t.resCh = 0#4 ∧ t.ilen = 0#8 ∧
      (∀ i, t.ibuf.read i = 0#8) ∧
      t.ibufBytes = s.ibufBytes ∧ t.turns = ts ∧ t.hostRead = s.hostRead

/-! ### Invariants -/

/-- The invariant holds at reset. -/
def Obligations.ResetMeetsInvariant : Prop := BlockInv State.reset

/-- Every step keeps the invariant. -/
def Obligations.StepKeepsInvariant : Prop :=
  ∀ s t : State, BlockInv s → step s = .next t → BlockInv t

/-- From a state that meets the invariant a step neither faults nor refuses: no behaviour of the block
is stuck (93_implementation_defined.md, end of part 1). -/
def Obligations.InvariantStateSteps : Prop :=
  ∀ s : State, BlockInv s → ∃ t, step s = .next t

/-- Canonical input memories that read alike are equal. The list form of the memory is the model's
choice, log entry 19. -/
def Obligations.CanonicalMemoriesEqual : Prop :=
  ∀ m m' : Memory, Memory.wf m = true → Memory.wf m' = true →
    (∀ i, m.read i = m'.read i) → m = m'

/-! ### The decode as a function -/

/-- The seven worked examples of the source (95_test_vectors.md section 1), through the function. -/
def Obligations.SourceScenarios : Prop :=
  decodeAsc [0x11#8, 0x90#8] = .ok ⟨.aacLc, 48000#24, 2#4⟩ ∧
  decodeAsc [0x12#8, 0x30#8] = .ok ⟨.aacLc, 44100#24, 6#4⟩ ∧
  decodeAsc [] = .err .endOfInput 0#7 ∧
  decodeAsc [0xF8#8, 0x14#8] = .err .unsupportedType 32#7 ∧
  decodeAsc [0x17#8, 0x00#8] = .err .invalidSfi 14#7 ∧
  decodeAsc [0x11#8, 0xF0#8] = .err .invalidCc 14#7 ∧
  decodeAsc [0x11#8, 0x80#8] = .err .ccNotSupported 0#7

/-- The record of a successful decode, R26: the type is AAC-LC, the rate is a table value or the
explicit 24-bit value, the channel count is 1 to 6 or 8; and every 24-bit rate, 0 too, is some
record's. -/
def Obligations.RecordRanges : Prop :=
  (∀ (B : List Byte) (r : AscRecord), decodeAsc B = .ok r →
    r.type = .aacLc ∧
    ((∃ k, k ≤ 12 ∧ readField B 5 4 = some k ∧ r.sampleRate = sfiRate k) ∨
      (readField B 5 4 = some 15 ∧ readField B 9 24 = some r.sampleRate.toNat)) ∧
    channelCountOk r.channelCount) ∧
  (∀ rate : Rate, ∃ (B : List Byte) (r : AscRecord), decodeAsc B = .ok r ∧ r.sampleRate = rate)

/-- The payload of a failed decode (the spec's derived rule, 10_state.md section 3, "Error payload
ranges"). -/
def Obligations.ErrorPayloadRanges : Prop :=
  ∀ (B : List Byte) (k : ErrKind) (v : BitVec 7), decodeAsc B = .err k v → payloadOk (kindCode k) v

/-- Table path (the spec's derived rule, 41_config_decoder.md section 4). -/
def Obligations.TablePath : Prop :=
  ∀ f c : Nat, f ≤ 12 → 1 ≤ c → c ≤ 7 →
    decodeAsc (ascTablePath 2 f c) =
      .ok ⟨.aacLc, sfiRate f, BitVec.ofNat 4 (if c = 7 then 8 else c)⟩

/-- Explicit path, for every 24-bit rate (the spec's derived rule, 41_config_decoder.md section 4). -/
def Obligations.ExplicitPath : Prop :=
  ∀ r c : Nat, r < 2 ^ 24 → 1 ≤ c → c ≤ 7 →
    decodeAsc (ascExplicitPath 2 r c) =
      .ok ⟨.aacLc, BitVec.ofNat 24 r, BitVec.ofNat 4 (if c = 7 then 8 else c)⟩

/-- Truncation (the spec's derived rule, 41_config_decoder.md section 4): a success of 13 bits needs 2
bytes, one of 37 bits needs 5, and any shorter prefix gives end of input. -/
def Obligations.Truncation : Prop :=
  ∀ (B : List Byte) (r : AscRecord) (k : Nat), decodeAsc B = .ok r →
    k < (if readField B 5 4 = some 15 then 5 else 2) →
    decodeAsc (B.take k) = .err .endOfInput 0#7

/-- Only the first five bytes matter (the spec's derived rule, 41_config_decoder.md section 3,
"Bounds"). -/
def Obligations.FirstFiveBytes : Prop :=
  ∀ B : List Byte, decodeAsc B = decodeAsc (B.take 5)

/-- Trailing bits, R103: where a decode reads the channel configuration, whether it ends in a record or
in one of that field's errors, inputs that agree up to the last field read, whatever follows and however
much, give the same result. -/
def Obligations.TrailingBitsIgnored : Prop :=
  ∀ B B' : List Byte, endsAtChannels (decodeAsc B) →
    (if readField B 5 4 = some 15 then 37 else 13) ≤ 8 * B'.length →
    (∀ k, k < (if readField B 5 4 = some 15 then 37 else 13) →
      streamBit (fun i => B.getD i 0#8) k = streamBit (fun i => B'.getD i 0#8) k) →
    decodeAsc B' = decodeAsc B

/-! ### The schedule agrees with the function -/

/-- One step of the machine keeps what is left of the decode: while busy, no step of the host or the
decoder changes the result the decode is heading for, and the step that completes it shows exactly
that result (the spec's derived rule of agreement, 41_config_decoder.md section 3). -/
def Obligations.StepRefinesDecode : Prop :=
  ∀ (s t : State) (B : List Byte) (r : AscResult), BlockInv s → noResetTurn s → holdsInput s B →
    ascFrom B s.state s.pos.toNat s.lRate = some r → step s = .next t →
    holdsInput t B ∧
    (ascFrom B t.state t.pos.toNat t.lRate = some r ∨
      (t.state = Fsm.idle ∧ hostResult t = some r))

/-- A whole decode: from the state a START leaves (`S_AOT`), under any turns of the host and the
decoder with no reset and at least four decoder turns, the block comes back to `IDLE` showing exactly
`DECODE` of its input, after as many decoder steps as 41_config_decoder.md section 3 tabulates, one to
four (the spec's derived rules of agreement and of the number of steps). -/
def Obligations.DecodeCompletes : Prop :=
  ∀ (s : State) (B : List Byte), BlockInv s → s.state = Fsm.sAot → holdsInput s B →
    (∀ t ∈ s.turns, t ≠ Turn.rst) → 4 ≤ s.turns.count Turn.decoder →
    ∃ (k : Nat) (t : State), k ≤ s.turns.length ∧
      Host.Core.run core k s = .next t ∧ BlockInv t ∧ t.turns = s.turns.drop k ∧
      t.state = Fsm.idle ∧ hostResult t = some (decodeAsc B) ∧
      (s.turns.take k).count Turn.decoder = ascSteps B ∧ 1 ≤ ascSteps B ∧ ascSteps B ≤ 4 ∧
      ∀ j u, j < k → Host.Core.run core j s = .next u → u.state ≠ Fsm.idle

/-! ### Several instances -/

/-- A step of one instance is that instance's own step and leaves every other instance as it was,
R78: nothing of the others is read or written. -/
def Obligations.InstancesShareNothing : Prop :=
  ∀ (before after : System) (p : Placed), (∀ q ∈ before, q.base ≠ p.base) →
    (∀ t, step p.block = .next t →
      System.stepAt p.base (before ++ p :: after) = .next (before ++ ⟨p.base, t⟩ :: after)) ∧
    (∀ r, step p.block = .fault r →
      System.stepAt p.base (before ++ p :: after) = .fault r) ∧
    (∀ r, step p.block = .refused r →
      System.stepAt p.base (before ++ p :: after) = .refused r)

/-- A bus access reaches only the instance whose window holds its address, at the offset from its base
(20_memory.md section 6; log entry 14). -/
def Obligations.BusAccessReachesItsWindow : Prop :=
  ∀ (before after : System) (p : Placed) (off : BitVec 8) (wr : Bool) (data : Word),
    (∀ q ∈ before, p.base + off.toNat < q.base ∨ q.base + 256 ≤ p.base + off.toNat) →
    System.present (p.base + off.toNat) wr data (before ++ p :: after) =
      before ++ ⟨p.base, { p.block with
        turns := Turn.host (hostWord wr off data) :: p.block.turns }⟩ :: after
end

