-- ==== Sys2Proof/Laws/State.lean ====
section
/-! SUPPORT. One lemma per field per named update of the state. -/

namespace Sys2Proof.Laws

open Sys2Proof.Machine

@[simp] theorem setByte_state (s : State) (i : Nat) (v : Byte) : (s.setByte i v).state = s.state := rfl
@[simp] theorem setByte_pos (s : State) (i : Nat) (v : Byte) : (s.setByte i v).pos = s.pos := rfl
@[simp] theorem setByte_lRate (s : State) (i : Nat) (v : Byte) : (s.setByte i v).lRate = s.lRate := rfl
@[simp] theorem setByte_done (s : State) (i : Nat) (v : Byte) : (s.setByte i v).done = s.done := rfl
@[simp] theorem setByte_kind (s : State) (i : Nat) (v : Byte) : (s.setByte i v).kind = s.kind := rfl
@[simp] theorem setByte_errval (s : State) (i : Nat) (v : Byte) : (s.setByte i v).errval = s.errval := rfl
@[simp] theorem setByte_resAot (s : State) (i : Nat) (v : Byte) : (s.setByte i v).resAot = s.resAot := rfl
@[simp] theorem setByte_resRate (s : State) (i : Nat) (v : Byte) : (s.setByte i v).resRate = s.resRate := rfl
@[simp] theorem setByte_resCh (s : State) (i : Nat) (v : Byte) : (s.setByte i v).resCh = s.resCh := rfl
@[simp] theorem setByte_ilen (s : State) (i : Nat) (v : Byte) : (s.setByte i v).ilen = s.ilen := rfl
@[simp] theorem setByte_ibuf (s : State) (i : Nat) (v : Byte) : (s.setByte i v).ibuf = s.ibuf.write i v := rfl
@[simp] theorem setByte_ibufBytes (s : State) (i : Nat) (v : Byte) : (s.setByte i v).ibufBytes = s.ibufBytes := rfl
@[simp] theorem setByte_turns (s : State) (i : Nat) (v : Byte) : (s.setByte i v).turns = s.turns := rfl
@[simp] theorem setByte_hostRead (s : State) (i : Nat) (v : Byte) : (s.setByte i v).hostRead = s.hostRead := rfl
@[simp] theorem setByte_bitOut (s : State) (i : Nat) (v : Byte) : (s.setByte i v).bitOut = s.bitOut := rfl

@[simp] theorem setIlen_state (s : State) (v : BitVec 8) : (s.setIlen v).state = s.state := rfl
@[simp] theorem setIlen_pos (s : State) (v : BitVec 8) : (s.setIlen v).pos = s.pos := rfl
@[simp] theorem setIlen_lRate (s : State) (v : BitVec 8) : (s.setIlen v).lRate = s.lRate := rfl
@[simp] theorem setIlen_done (s : State) (v : BitVec 8) : (s.setIlen v).done = s.done := rfl
@[simp] theorem setIlen_kind (s : State) (v : BitVec 8) : (s.setIlen v).kind = s.kind := rfl
@[simp] theorem setIlen_errval (s : State) (v : BitVec 8) : (s.setIlen v).errval = s.errval := rfl
@[simp] theorem setIlen_resAot (s : State) (v : BitVec 8) : (s.setIlen v).resAot = s.resAot := rfl
@[simp] theorem setIlen_resRate (s : State) (v : BitVec 8) : (s.setIlen v).resRate = s.resRate := rfl
@[simp] theorem setIlen_resCh (s : State) (v : BitVec 8) : (s.setIlen v).resCh = s.resCh := rfl
@[simp] theorem setIlen_ilen (s : State) (v : BitVec 8) : (s.setIlen v).ilen = v := rfl
@[simp] theorem setIlen_ibuf (s : State) (v : BitVec 8) : (s.setIlen v).ibuf = s.ibuf := rfl
@[simp] theorem setIlen_ibufBytes (s : State) (v : BitVec 8) : (s.setIlen v).ibufBytes = s.ibufBytes := rfl
@[simp] theorem setIlen_turns (s : State) (v : BitVec 8) : (s.setIlen v).turns = s.turns := rfl
@[simp] theorem setIlen_hostRead (s : State) (v : BitVec 8) : (s.setIlen v).hostRead = s.hostRead := rfl
@[simp] theorem setIlen_bitOut (s : State) (v : BitVec 8) : (s.setIlen v).bitOut = s.bitOut := rfl

@[simp] theorem goto_state (s : State) (c : BitVec 3) : (s.goto c).state = c := rfl
@[simp] theorem goto_pos (s : State) (c : BitVec 3) : (s.goto c).pos = s.pos := rfl
@[simp] theorem goto_lRate (s : State) (c : BitVec 3) : (s.goto c).lRate = s.lRate := rfl
@[simp] theorem goto_done (s : State) (c : BitVec 3) : (s.goto c).done = s.done := rfl
@[simp] theorem goto_kind (s : State) (c : BitVec 3) : (s.goto c).kind = s.kind := rfl
@[simp] theorem goto_errval (s : State) (c : BitVec 3) : (s.goto c).errval = s.errval := rfl
@[simp] theorem goto_resAot (s : State) (c : BitVec 3) : (s.goto c).resAot = s.resAot := rfl
@[simp] theorem goto_resRate (s : State) (c : BitVec 3) : (s.goto c).resRate = s.resRate := rfl
@[simp] theorem goto_resCh (s : State) (c : BitVec 3) : (s.goto c).resCh = s.resCh := rfl
@[simp] theorem goto_ilen (s : State) (c : BitVec 3) : (s.goto c).ilen = s.ilen := rfl
@[simp] theorem goto_ibuf (s : State) (c : BitVec 3) : (s.goto c).ibuf = s.ibuf := rfl
@[simp] theorem goto_ibufBytes (s : State) (c : BitVec 3) : (s.goto c).ibufBytes = s.ibufBytes := rfl
@[simp] theorem goto_turns (s : State) (c : BitVec 3) : (s.goto c).turns = s.turns := rfl
@[simp] theorem goto_hostRead (s : State) (c : BitVec 3) : (s.goto c).hostRead = s.hostRead := rfl
@[simp] theorem goto_bitOut (s : State) (c : BitVec 3) : (s.goto c).bitOut = s.bitOut := rfl

@[simp] theorem latchRate_state (s : State) (r : Rate) : (s.latchRate r).state = s.state := rfl
@[simp] theorem latchRate_pos (s : State) (r : Rate) : (s.latchRate r).pos = s.pos := rfl
@[simp] theorem latchRate_lRate (s : State) (r : Rate) : (s.latchRate r).lRate = r := rfl
@[simp] theorem latchRate_done (s : State) (r : Rate) : (s.latchRate r).done = s.done := rfl
@[simp] theorem latchRate_kind (s : State) (r : Rate) : (s.latchRate r).kind = s.kind := rfl
@[simp] theorem latchRate_errval (s : State) (r : Rate) : (s.latchRate r).errval = s.errval := rfl
@[simp] theorem latchRate_resAot (s : State) (r : Rate) : (s.latchRate r).resAot = s.resAot := rfl
@[simp] theorem latchRate_resRate (s : State) (r : Rate) : (s.latchRate r).resRate = s.resRate := rfl
@[simp] theorem latchRate_resCh (s : State) (r : Rate) : (s.latchRate r).resCh = s.resCh := rfl
@[simp] theorem latchRate_ilen (s : State) (r : Rate) : (s.latchRate r).ilen = s.ilen := rfl
@[simp] theorem latchRate_ibuf (s : State) (r : Rate) : (s.latchRate r).ibuf = s.ibuf := rfl
@[simp] theorem latchRate_ibufBytes (s : State) (r : Rate) : (s.latchRate r).ibufBytes = s.ibufBytes := rfl
@[simp] theorem latchRate_turns (s : State) (r : Rate) : (s.latchRate r).turns = s.turns := rfl
@[simp] theorem latchRate_hostRead (s : State) (r : Rate) : (s.latchRate r).hostRead = s.hostRead := rfl
@[simp] theorem latchRate_bitOut (s : State) (r : Rate) : (s.latchRate r).bitOut = s.bitOut := rfl

@[simp] theorem answerHost_state (s : State) (v : Word) : (s.answerHost v).state = s.state := rfl
@[simp] theorem answerHost_pos (s : State) (v : Word) : (s.answerHost v).pos = s.pos := rfl
@[simp] theorem answerHost_lRate (s : State) (v : Word) : (s.answerHost v).lRate = s.lRate := rfl
@[simp] theorem answerHost_done (s : State) (v : Word) : (s.answerHost v).done = s.done := rfl
@[simp] theorem answerHost_kind (s : State) (v : Word) : (s.answerHost v).kind = s.kind := rfl
@[simp] theorem answerHost_errval (s : State) (v : Word) : (s.answerHost v).errval = s.errval := rfl
@[simp] theorem answerHost_resAot (s : State) (v : Word) : (s.answerHost v).resAot = s.resAot := rfl
@[simp] theorem answerHost_resRate (s : State) (v : Word) : (s.answerHost v).resRate = s.resRate := rfl
@[simp] theorem answerHost_resCh (s : State) (v : Word) : (s.answerHost v).resCh = s.resCh := rfl
@[simp] theorem answerHost_ilen (s : State) (v : Word) : (s.answerHost v).ilen = s.ilen := rfl
@[simp] theorem answerHost_ibuf (s : State) (v : Word) : (s.answerHost v).ibuf = s.ibuf := rfl
@[simp] theorem answerHost_ibufBytes (s : State) (v : Word) : (s.answerHost v).ibufBytes = s.ibufBytes := rfl
@[simp] theorem answerHost_turns (s : State) (v : Word) : (s.answerHost v).turns = s.turns := rfl
@[simp] theorem answerHost_hostRead (s : State) (v : Word) : (s.answerHost v).hostRead = some v := rfl
@[simp] theorem answerHost_bitOut (s : State) (v : Word) : (s.answerHost v).bitOut = s.bitOut := rfl

@[simp] theorem reportBits_state (s : State) (o : BitOut) : (s.reportBits o).state = s.state := rfl
@[simp] theorem reportBits_pos (s : State) (o : BitOut) : (s.reportBits o).pos = s.pos := rfl
@[simp] theorem reportBits_lRate (s : State) (o : BitOut) : (s.reportBits o).lRate = s.lRate := rfl
@[simp] theorem reportBits_done (s : State) (o : BitOut) : (s.reportBits o).done = s.done := rfl
@[simp] theorem reportBits_kind (s : State) (o : BitOut) : (s.reportBits o).kind = s.kind := rfl
@[simp] theorem reportBits_errval (s : State) (o : BitOut) : (s.reportBits o).errval = s.errval := rfl
@[simp] theorem reportBits_resAot (s : State) (o : BitOut) : (s.reportBits o).resAot = s.resAot := rfl
@[simp] theorem reportBits_resRate (s : State) (o : BitOut) : (s.reportBits o).resRate = s.resRate := rfl
@[simp] theorem reportBits_resCh (s : State) (o : BitOut) : (s.reportBits o).resCh = s.resCh := rfl
@[simp] theorem reportBits_ilen (s : State) (o : BitOut) : (s.reportBits o).ilen = s.ilen := rfl
@[simp] theorem reportBits_ibuf (s : State) (o : BitOut) : (s.reportBits o).ibuf = s.ibuf := rfl
@[simp] theorem reportBits_ibufBytes (s : State) (o : BitOut) : (s.reportBits o).ibufBytes = s.ibufBytes := rfl
@[simp] theorem reportBits_turns (s : State) (o : BitOut) : (s.reportBits o).turns = s.turns := rfl
@[simp] theorem reportBits_hostRead (s : State) (o : BitOut) : (s.reportBits o).hostRead = s.hostRead := rfl
@[simp] theorem reportBits_bitOut (s : State) (o : BitOut) : (s.reportBits o).bitOut = some o := rfl

@[simp] theorem popTurn_state (s : State) : s.popTurn.state = s.state := rfl
@[simp] theorem popTurn_pos (s : State) : s.popTurn.pos = s.pos := rfl
@[simp] theorem popTurn_lRate (s : State) : s.popTurn.lRate = s.lRate := rfl
@[simp] theorem popTurn_done (s : State) : s.popTurn.done = s.done := rfl
@[simp] theorem popTurn_kind (s : State) : s.popTurn.kind = s.kind := rfl
@[simp] theorem popTurn_errval (s : State) : s.popTurn.errval = s.errval := rfl
@[simp] theorem popTurn_resAot (s : State) : s.popTurn.resAot = s.resAot := rfl
@[simp] theorem popTurn_resRate (s : State) : s.popTurn.resRate = s.resRate := rfl
@[simp] theorem popTurn_resCh (s : State) : s.popTurn.resCh = s.resCh := rfl
@[simp] theorem popTurn_ilen (s : State) : s.popTurn.ilen = s.ilen := rfl
@[simp] theorem popTurn_ibuf (s : State) : s.popTurn.ibuf = s.ibuf := rfl
@[simp] theorem popTurn_ibufBytes (s : State) : s.popTurn.ibufBytes = s.ibufBytes := rfl
@[simp] theorem popTurn_turns (s : State) : s.popTurn.turns = s.turns.tail := rfl
@[simp] theorem popTurn_hostRead (s : State) : s.popTurn.hostRead = s.hostRead := rfl
@[simp] theorem popTurn_bitOut (s : State) : s.popTurn.bitOut = s.bitOut := rfl

@[simp] theorem advance_state (s : State) (n : Nat) : (s.advance n).state = s.state := rfl
@[simp] theorem advance_pos (s : State) (n : Nat) : (s.advance n).pos = cursorAt (s.pos.toNat + n) := rfl
@[simp] theorem advance_lRate (s : State) (n : Nat) : (s.advance n).lRate = s.lRate := rfl
@[simp] theorem advance_done (s : State) (n : Nat) : (s.advance n).done = s.done := rfl
@[simp] theorem advance_kind (s : State) (n : Nat) : (s.advance n).kind = s.kind := rfl
@[simp] theorem advance_errval (s : State) (n : Nat) : (s.advance n).errval = s.errval := rfl
@[simp] theorem advance_resAot (s : State) (n : Nat) : (s.advance n).resAot = s.resAot := rfl
@[simp] theorem advance_resRate (s : State) (n : Nat) : (s.advance n).resRate = s.resRate := rfl
@[simp] theorem advance_resCh (s : State) (n : Nat) : (s.advance n).resCh = s.resCh := rfl
@[simp] theorem advance_ilen (s : State) (n : Nat) : (s.advance n).ilen = s.ilen := rfl
@[simp] theorem advance_ibuf (s : State) (n : Nat) : (s.advance n).ibuf = s.ibuf := rfl
@[simp] theorem advance_ibufBytes (s : State) (n : Nat) : (s.advance n).ibufBytes = s.ibufBytes := rfl
@[simp] theorem advance_turns (s : State) (n : Nat) : (s.advance n).turns = s.turns := rfl
@[simp] theorem advance_hostRead (s : State) (n : Nat) : (s.advance n).hostRead = s.hostRead := rfl
@[simp] theorem advance_bitOut (s : State) (n : Nat) : (s.advance n).bitOut = s.bitOut := rfl

@[simp] theorem finishOk_state (r : Rate) (c : BitVec 4) (s : State) : (finishOk r c s).state = Fsm.idle := rfl
@[simp] theorem finishOk_pos (r : Rate) (c : BitVec 4) (s : State) : (finishOk r c s).pos = s.pos := rfl
@[simp] theorem finishOk_lRate (r : Rate) (c : BitVec 4) (s : State) : (finishOk r c s).lRate = s.lRate := rfl
@[simp] theorem finishOk_done (r : Rate) (c : BitVec 4) (s : State) : (finishOk r c s).done = true := rfl
@[simp] theorem finishOk_kind (r : Rate) (c : BitVec 4) (s : State) : (finishOk r c s).kind = 0#3 := rfl
@[simp] theorem finishOk_errval (r : Rate) (c : BitVec 4) (s : State) : (finishOk r c s).errval = 0#7 := rfl
@[simp] theorem finishOk_resAot (r : Rate) (c : BitVec 4) (s : State) : (finishOk r c s).resAot = 2#7 := rfl
@[simp] theorem finishOk_resRate (r : Rate) (c : BitVec 4) (s : State) : (finishOk r c s).resRate = r := rfl
@[simp] theorem finishOk_resCh (r : Rate) (c : BitVec 4) (s : State) : (finishOk r c s).resCh = c := rfl
@[simp] theorem finishOk_ilen (r : Rate) (c : BitVec 4) (s : State) : (finishOk r c s).ilen = s.ilen := rfl
@[simp] theorem finishOk_ibuf (r : Rate) (c : BitVec 4) (s : State) : (finishOk r c s).ibuf = s.ibuf := rfl
@[simp] theorem finishOk_ibufBytes (r : Rate) (c : BitVec 4) (s : State) : (finishOk r c s).ibufBytes = s.ibufBytes := rfl
@[simp] theorem finishOk_turns (r : Rate) (c : BitVec 4) (s : State) : (finishOk r c s).turns = s.turns := rfl
@[simp] theorem finishOk_hostRead (r : Rate) (c : BitVec 4) (s : State) : (finishOk r c s).hostRead = s.hostRead := rfl
@[simp] theorem finishOk_bitOut (r : Rate) (c : BitVec 4) (s : State) : (finishOk r c s).bitOut = s.bitOut := rfl

@[simp] theorem finishErr_state (k : ErrKind) (v : BitVec 7) (s : State) : (finishErr k v s).state = Fsm.idle := rfl
@[simp] theorem finishErr_pos (k : ErrKind) (v : BitVec 7) (s : State) : (finishErr k v s).pos = s.pos := rfl
@[simp] theorem finishErr_lRate (k : ErrKind) (v : BitVec 7) (s : State) : (finishErr k v s).lRate = s.lRate := rfl
@[simp] theorem finishErr_done (k : ErrKind) (v : BitVec 7) (s : State) : (finishErr k v s).done = true := rfl
@[simp] theorem finishErr_kind (k : ErrKind) (v : BitVec 7) (s : State) : (finishErr k v s).kind = kindCode k := rfl
@[simp] theorem finishErr_errval (k : ErrKind) (v : BitVec 7) (s : State) : (finishErr k v s).errval = v := rfl
@[simp] theorem finishErr_resAot (k : ErrKind) (v : BitVec 7) (s : State) : (finishErr k v s).resAot = s.resAot := rfl
@[simp] theorem finishErr_resRate (k : ErrKind) (v : BitVec 7) (s : State) : (finishErr k v s).resRate = s.resRate := rfl
@[simp] theorem finishErr_resCh (k : ErrKind) (v : BitVec 7) (s : State) : (finishErr k v s).resCh = s.resCh := rfl
@[simp] theorem finishErr_ilen (k : ErrKind) (v : BitVec 7) (s : State) : (finishErr k v s).ilen = s.ilen := rfl
@[simp] theorem finishErr_ibuf (k : ErrKind) (v : BitVec 7) (s : State) : (finishErr k v s).ibuf = s.ibuf := rfl
@[simp] theorem finishErr_ibufBytes (k : ErrKind) (v : BitVec 7) (s : State) : (finishErr k v s).ibufBytes = s.ibufBytes := rfl
@[simp] theorem finishErr_turns (k : ErrKind) (v : BitVec 7) (s : State) : (finishErr k v s).turns = s.turns := rfl
@[simp] theorem finishErr_hostRead (k : ErrKind) (v : BitVec 7) (s : State) : (finishErr k v s).hostRead = s.hostRead := rfl
@[simp] theorem finishErr_bitOut (k : ErrKind) (v : BitVec 7) (s : State) : (finishErr k v s).bitOut = s.bitOut := rfl

@[simp] theorem startDecode_state (s : State) : (startDecode s).state = Fsm.sAot := rfl
@[simp] theorem startDecode_pos (s : State) : (startDecode s).pos = 0#6 := rfl
@[simp] theorem startDecode_lRate (s : State) : (startDecode s).lRate = 0#24 := rfl
@[simp] theorem startDecode_done (s : State) : (startDecode s).done = false := rfl
@[simp] theorem startDecode_kind (s : State) : (startDecode s).kind = 0#3 := rfl
@[simp] theorem startDecode_errval (s : State) : (startDecode s).errval = 0#7 := rfl
@[simp] theorem startDecode_resAot (s : State) : (startDecode s).resAot = 0#7 := rfl
@[simp] theorem startDecode_resRate (s : State) : (startDecode s).resRate = 0#24 := rfl
@[simp] theorem startDecode_resCh (s : State) : (startDecode s).resCh = 0#4 := rfl
@[simp] theorem startDecode_ilen (s : State) : (startDecode s).ilen = s.ilen := rfl
@[simp] theorem startDecode_ibuf (s : State) : (startDecode s).ibuf = s.ibuf := rfl
@[simp] theorem startDecode_ibufBytes (s : State) : (startDecode s).ibufBytes = s.ibufBytes := rfl
@[simp] theorem startDecode_turns (s : State) : (startDecode s).turns = s.turns := rfl
@[simp] theorem startDecode_hostRead (s : State) : (startDecode s).hostRead = s.hostRead := rfl
@[simp] theorem startDecode_bitOut (s : State) : (startDecode s).bitOut = s.bitOut := rfl

@[simp] theorem resetBlock_state (s : State) : (resetBlock s).state = Fsm.idle := rfl
@[simp] theorem resetBlock_pos (s : State) : (resetBlock s).pos = 0#6 := rfl
@[simp] theorem resetBlock_lRate (s : State) : (resetBlock s).lRate = 0#24 := rfl
@[simp] theorem resetBlock_done (s : State) : (resetBlock s).done = false := rfl
@[simp] theorem resetBlock_kind (s : State) : (resetBlock s).kind = 0#3 := rfl
@[simp] theorem resetBlock_errval (s : State) : (resetBlock s).errval = 0#7 := rfl
@[simp] theorem resetBlock_resAot (s : State) : (resetBlock s).resAot = 0#7 := rfl
@[simp] theorem resetBlock_resRate (s : State) : (resetBlock s).resRate = 0#24 := rfl
@[simp] theorem resetBlock_resCh (s : State) : (resetBlock s).resCh = 0#4 := rfl
@[simp] theorem resetBlock_ilen (s : State) : (resetBlock s).ilen = 0#8 := rfl
@[simp] theorem resetBlock_ibuf (s : State) : (resetBlock s).ibuf = [] := rfl
@[simp] theorem resetBlock_ibufBytes (s : State) : (resetBlock s).ibufBytes = s.ibufBytes := rfl
@[simp] theorem resetBlock_turns (s : State) : (resetBlock s).turns = s.turns := rfl
@[simp] theorem resetBlock_hostRead (s : State) : (resetBlock s).hostRead = s.hostRead := rfl
@[simp] theorem resetBlock_bitOut (s : State) : (resetBlock s).bitOut = none := rfl

end Sys2Proof.Laws
end

