-- ==== Sys2Proof/Laws/Memory.lean ====
section
/-! SUPPORT. The input byte memory: read after write, and every write keeps the canonical form. -/

namespace Sys2Proof.Laws

open Sys2Proof.Machine

/-- The head of a canonical memory comes first and is listed for a reason; the rest is canonical. -/
theorem memory_wf_cons (a : Nat) (b : Byte) (m : Memory) :
    Memory.wf ((a, b) :: m) = true ↔
      b ≠ unlistedByte ∧ (∀ c ∈ m, a < c.1) ∧ Memory.wf m = true := by
  simp [Memory.wf, and_assoc]

/-- An index below every listed one reads as unlisted. -/
theorem memory_read_below (m : Memory) (i : Nat) (h : ∀ c ∈ m, i < c.1) :
    m.read i = unlistedByte := by
  induction m with
  | nil => rfl
  | cons c m ih =>
    obtain ⟨a, b⟩ := c
    have ha : i < a := h (a, b) (by simp)
    have hm : ∀ c ∈ m, i < c.1 := fun c hc => h c (by simp [hc])
    simp [Memory.read, Nat.ne_of_gt ha, ih hm]

/-- Read after write, same index. -/
theorem memory_read_write_same (m : Memory) (i : Nat) (v : Byte) (h : Memory.wf m = true) :
    (m.write i v).read i = v := by
  induction m with
  | nil => by_cases hv : v = unlistedByte <;> simp [Memory.write, Memory.read, hv]
  | cons c m ih =>
    obtain ⟨a, b⟩ := c
    obtain ⟨_, hlt, hm⟩ := (memory_wf_cons a b m).1 h
    by_cases h1 : i < a
    · by_cases hv : v = unlistedByte
      · have hb := memory_read_below m i (fun c hc => Nat.lt_trans h1 (hlt c hc))
        simp [Memory.write, Memory.read, h1, hv, Nat.ne_of_gt h1, hb]
      · simp [Memory.write, Memory.read, h1, hv]
    · by_cases h2 : i = a
      · subst h2
        by_cases hv : v = unlistedByte
        · simp [Memory.write, hv, memory_read_below m i hlt]
        · simp [Memory.write, Memory.read, hv]
      · have h3 : a ≠ i := fun e => h2 e.symm
        simp [Memory.write, Memory.read, h1, h2, h3, ih hm]

/-- Read after write, another index. -/
theorem memory_read_write_ne (m : Memory) (i j : Nat) (v : Byte) (hij : j ≠ i) :
    (m.write i v).read j = m.read j := by
  have hne : i ≠ j := fun e => hij e.symm
  induction m with
  | nil => by_cases hv : v = unlistedByte <;> simp [Memory.write, Memory.read, hv, hne]
  | cons c m ih =>
    obtain ⟨a, b⟩ := c
    by_cases h1 : i < a
    · by_cases hv : v = unlistedByte <;> simp [Memory.write, Memory.read, h1, hv, hne]
    · by_cases h2 : i = a
      · subst h2
        by_cases hv : v = unlistedByte <;> simp [Memory.write, Memory.read, hv, hne]
      · simp [Memory.write, Memory.read, h1, h2, ih]

/-- Every index listed after a write was listed before, or is the one written. -/
theorem memory_write_indices (m : Memory) (i : Nat) (v : Byte) (c : Host.Cell)
    (hc : c ∈ m.write i v) : c.1 = i ∨ c ∈ m := by
  induction m with
  | nil => by_cases hv : v = unlistedByte <;> simp_all [Memory.write]
  | cons d m ih =>
    obtain ⟨a, b⟩ := d
    by_cases h1 : i < a
    · by_cases hv : v = unlistedByte
      · simp_all [Memory.write]
      · simp only [Memory.write, h1, hv, if_true, if_false, List.mem_cons] at hc
        rcases hc with rfl | h
        · exact .inl rfl
        · exact .inr (by simpa using h)
    · by_cases h2 : i = a
      · subst h2
        by_cases hv : v = unlistedByte
        · simp only [Memory.write, Nat.lt_irrefl, hv, if_true, if_false] at hc
          exact .inr (by simp [hc])
        · simp only [Memory.write, Nat.lt_irrefl, hv, if_true, if_false, List.mem_cons] at hc
          rcases hc with rfl | h
          · exact .inl rfl
          · exact .inr (by simp [h])
      · simp only [Memory.write, h1, h2, if_false, List.mem_cons] at hc
        rcases hc with rfl | h
        · exact .inr (by simp)
        · exact (ih h).imp id (fun h => by simp [h])

/-- A write keeps the canonical form. -/
theorem memory_write_wf (m : Memory) (i : Nat) (v : Byte) (h : Memory.wf m = true) :
    Memory.wf (m.write i v) = true := by
  induction m with
  | nil => by_cases hv : v = unlistedByte <;> simp [Memory.write, Memory.wf, hv]
  | cons c m ih =>
    obtain ⟨a, b⟩ := c
    obtain ⟨hb, hlt, hm⟩ := (memory_wf_cons a b m).1 h
    by_cases h1 : i < a
    · by_cases hv : v = unlistedByte
      · simpa [Memory.write, h1, hv] using h
      · simp only [Memory.write, h1, hv, if_true, if_false]
        refine (memory_wf_cons i v _).2 ⟨hv, ?_, h⟩
        intro c hc
        rcases List.mem_cons.1 hc with rfl | hc
        · exact h1
        · exact Nat.lt_trans h1 (hlt c hc)
    · by_cases h2 : i = a
      · subst h2
        by_cases hv : v = unlistedByte
        · simpa [Memory.write, hv] using hm
        · simp only [Memory.write, Nat.lt_irrefl, hv, if_true, if_false]
          exact (memory_wf_cons i v m).2 ⟨hv, hlt, hm⟩
      · simp only [Memory.write, h1, h2, if_false]
        refine (memory_wf_cons a b _).2 ⟨hb, ?_, ih hm⟩
        intro c hc
        rcases memory_write_indices m i v c hc with e | hc
        · omega
        · exact hlt c hc

/-- The memory of the reset state is canonical. -/
theorem memory_reset_wf : Memory.wf State.reset.ibuf = true := rfl

end Sys2Proof.Laws
end

