-- ==== Sys2Proof/Laws/PerInstr.lean ====
section
/-! SUPPORT. One lemma per instruction: its word, as `encode` writes it, lies in the row that
spec/opcode_table.json gives the instruction (format, mask and match; the table's masks are for the
default `IBUF_BYTES` of 8). -/

namespace Sys2Proof.Laws

/-- The names of the table's formats. -/
inductive TableFormat where
  | rdreq | fsmstate | hostacc | aot5 | aotext | sfi4 | sfix | cc4
  deriving DecidableEq, Repr

/-- The format of a word. -/
def formatOf : Code → TableFormat
  | .rdreq _ => .rdreq
  | .fsmstate _ => .fsmstate
  | .hostacc _ => .hostacc
  | .aot5 _ => .aot5
  | .aotext _ => .aotext
  | .sfi4 _ => .sfi4
  | .sfix _ => .sfix
  | .cc4 _ => .cc4

/-- The number of a word. -/
def numberOf : Code → BitVec 41
  | .rdreq n => n.setWidth 41
  | .fsmstate st => st.setWidth 41
  | .hostacc w => w
  | .aot5 v => v.setWidth 41
  | .aotext v => v.setWidth 41
  | .sfi4 v => v.setWidth 41
  | .sfix v => v.setWidth 41
  | .cc4 v => v.setWidth 41

/-- A row of spec/opcode_table.json: its format, `mask` and `match`. -/
structure TableRow where
  format : TableFormat
  mask : BitVec 41
  value : BitVec 41

/-- The row of each instruction, transcribed from spec/opcode_table.json. -/
def tableRow : Instr → TableRow
  | .readbits _ => ⟨.rdreq, 0x00#41, 0x00#41⟩
  | .idle => ⟨.fsmstate, 0x7#41, 0x0#41⟩
  | .sAot => ⟨.fsmstate, 0x7#41, 0x1#41⟩
  | .sAotExt => ⟨.fsmstate, 0x7#41, 0x2#41⟩
  | .sSfi => ⟨.fsmstate, 0x7#41, 0x3#41⟩
  | .sRate => ⟨.fsmstate, 0x7#41, 0x4#41⟩
  | .sCc => ⟨.fsmstate, 0x7#41, 0x5#41⟩
  | .start _ => ⟨.hostacc, 0x1FF00000001#41, 0x10000000001#41⟩
  | .wrCtrlNop _ => ⟨.hostacc, 0x1FF00000001#41, 0x10000000000#41⟩
  | .wrIlen _ => ⟨.hostacc, 0x1FF00000000#41, 0x11800000000#41⟩
  | .wrIbuf _ _ => ⟨.hostacc, 0x1E300000000#41, 0x12000000000#41⟩
  | .rdStatus _ => ⟨.hostacc, 0x1FF00000000#41, 0x00400000000#41⟩
  | .rdErrval _ => ⟨.hostacc, 0x1FF00000000#41, 0x00800000000#41⟩
  | .rdResAot _ => ⟨.hostacc, 0x1FF00000000#41, 0x00C00000000#41⟩
  | .rdResRate _ => ⟨.hostacc, 0x1FF00000000#41, 0x01000000000#41⟩
  | .rdResCh _ => ⟨.hostacc, 0x1FF00000000#41, 0x01400000000#41⟩
  | .rdIlen _ => ⟨.hostacc, 0x1FF00000000#41, 0x01800000000#41⟩
  | .rdIbuf _ _ => ⟨.hostacc, 0x1E300000000#41, 0x02000000000#41⟩
  | .rdCtrl _ => ⟨.hostacc, 0x1FF00000000#41, 0x00000000000#41⟩
  | .rdReserved _ _ => ⟨.hostacc, 0x10000000000#41, 0x00000000000#41⟩
  | .wrIgnored _ _ => ⟨.hostacc, 0x10000000000#41, 0x10000000000#41⟩
  | .aotLc => ⟨.aot5, 0x1F#41, 0x02#41⟩
  | .aotEscape => ⟨.aot5, 0x1F#41, 0x1F#41⟩
  | .aotUnsupported _ => ⟨.aot5, 0x00#41, 0x00#41⟩
  | .aotExt _ => ⟨.aotext, 0x00#41, 0x00#41⟩
  | .sfi0 => ⟨.sfi4, 0xF#41, 0x0#41⟩
  | .sfi1 => ⟨.sfi4, 0xF#41, 0x1#41⟩
  | .sfi2 => ⟨.sfi4, 0xF#41, 0x2#41⟩
  | .sfi3 => ⟨.sfi4, 0xF#41, 0x3#41⟩
  | .sfi4 => ⟨.sfi4, 0xF#41, 0x4#41⟩
  | .sfi5 => ⟨.sfi4, 0xF#41, 0x5#41⟩
  | .sfi6 => ⟨.sfi4, 0xF#41, 0x6#41⟩
  | .sfi7 => ⟨.sfi4, 0xF#41, 0x7#41⟩
  | .sfi8 => ⟨.sfi4, 0xF#41, 0x8#41⟩
  | .sfi9 => ⟨.sfi4, 0xF#41, 0x9#41⟩
  | .sfi10 => ⟨.sfi4, 0xF#41, 0xA#41⟩
  | .sfi11 => ⟨.sfi4, 0xF#41, 0xB#41⟩
  | .sfi12 => ⟨.sfi4, 0xF#41, 0xC#41⟩
  | .sfiRsv13 => ⟨.sfi4, 0xF#41, 0xD#41⟩
  | .sfiRsv14 => ⟨.sfi4, 0xF#41, 0xE#41⟩
  | .sfiExplicit => ⟨.sfi4, 0xF#41, 0xF#41⟩
  | .rateExplicit _ => ⟨.sfix, 0x000000#41, 0x000000#41⟩
  | .ccPce => ⟨.cc4, 0xF#41, 0x0#41⟩
  | .cc1 => ⟨.cc4, 0xF#41, 0x1#41⟩
  | .cc2 => ⟨.cc4, 0xF#41, 0x2#41⟩
  | .cc3 => ⟨.cc4, 0xF#41, 0x3#41⟩
  | .cc4 => ⟨.cc4, 0xF#41, 0x4#41⟩
  | .cc5 => ⟨.cc4, 0xF#41, 0x5#41⟩
  | .cc6 => ⟨.cc4, 0xF#41, 0x6#41⟩
  | .cc7 => ⟨.cc4, 0xF#41, 0x7#41⟩
  | .ccRsv8 => ⟨.cc4, 0xF#41, 0x8#41⟩
  | .ccRsv9 => ⟨.cc4, 0xF#41, 0x9#41⟩
  | .ccRsv10 => ⟨.cc4, 0xF#41, 0xA#41⟩
  | .ccRsv11 => ⟨.cc4, 0xF#41, 0xB#41⟩
  | .ccRsv12 => ⟨.cc4, 0xF#41, 0xC#41⟩
  | .ccRsv13 => ⟨.cc4, 0xF#41, 0xD#41⟩
  | .ccRsv14 => ⟨.cc4, 0xF#41, 0xE#41⟩
  | .ccRsv15 => ⟨.cc4, 0xF#41, 0xF#41⟩

/-- The word of a well-formed instruction lies in the instruction's row. -/
def EncodeMatchesTable.Statement (i : Instr) : Prop :=
  i.wellFormed 8 = true →
    formatOf (encode i) = (tableRow i).format ∧
    numberOf (encode i) &&& (tableRow i).mask = (tableRow i).value

/-- Masking a transaction word masks its three parts. -/
theorem hostWord_and (wr : Bool) (off : BitVec 8) (data : Word) (a : BitVec 1) (b : BitVec 8)
    (c : BitVec 32) :
    hostWord wr off data &&& (a ++ b ++ c) =
      ((BitVec.ofBool wr &&& a) ++ (off &&& b) ++ (data &&& c)) := by
  apply BitVec.eq_of_getLsbD_eq
  intro k _
  simp only [hostWord, BitVec.getLsbD_and, BitVec.getLsbD_append]
  split
  · rfl
  · split <;> rfl

/-- A transaction word with its write bit and its offset kept. -/
theorem hostWord_and_offset (wr : Bool) (off : BitVec 8) (data : Word) :
    hostWord wr off data &&& 0x1FF00000000#41 = (BitVec.ofBool wr ++ off ++ 0#32) := by
  have h : 0x1FF00000000#41 = (1#1 ++ 0xFF#8 ++ 0#32) := by decide
  rw [h, hostWord_and]
  have h1 : BitVec.ofBool wr &&& 1#1 = BitVec.ofBool wr := by cases wr <;> decide
  have h2 : off &&& 0xFF#8 = off := BitVec.and_allOnes
  rw [h1, h2, BitVec.and_zero]

/-- A transaction word with its write bit, its offset and data bit 0 kept. -/
theorem hostWord_and_start (wr : Bool) (off : BitVec 8) (data : Word) :
    hostWord wr off data &&& 0x1FF00000001#41 =
      (BitVec.ofBool wr ++ off ++ (if data.getLsbD 0 then 1#32 else 0#32)) := by
  have h : 0x1FF00000001#41 = (1#1 ++ 0xFF#8 ++ 1#32) := by decide
  rw [h, hostWord_and]
  have h1 : BitVec.ofBool wr &&& 1#1 = BitVec.ofBool wr := by cases wr <;> decide
  have h2 : off &&& 0xFF#8 = off := BitVec.and_allOnes
  have h3 : data &&& 1#32 = if data.getLsbD 0 then 1#32 else 0#32 := by
    rw [BitVec.and_one_eq_setWidth_ofBool_getLsbD]
    cases data.getLsbD 0 <;> decide
  rw [h1, h2, h3]

/-- A transaction word with its write bit kept. -/
theorem hostWord_and_write (wr : Bool) (off : BitVec 8) (data : Word) :
    hostWord wr off data &&& 0x10000000000#41 = (BitVec.ofBool wr ++ 0#8 ++ 0#32) := by
  have h : 0x10000000000#41 = (1#1 ++ 0#8 ++ 0#32) := by decide
  rw [h, hostWord_and]
  have h1 : BitVec.ofBool wr &&& 1#1 = BitVec.ofBool wr := by cases wr <;> decide
  rw [h1, BitVec.and_zero, BitVec.and_zero]

/-- A transaction word under the table's mask of the default input byte offsets. -/
theorem hostWord_and_ibuf (wr : Bool) (i : BitVec 6) (data : Word) (h : i.toNat < 8) :
    hostWord wr (ibufOffset i) data &&& 0x1E300000000#41 = (BitVec.ofBool wr ++ 0x20#8 ++ 0#32) := by
  have e : 0x1E300000000#41 = (1#1 ++ 0xE3#8 ++ 0#32) := by decide
  rw [e, hostWord_and]
  have h1 : BitVec.ofBool wr &&& 1#1 = BitVec.ofBool wr := by cases wr <;> decide
  have h2 : ibufOffset i &&& 0xE3#8 = 0x20#8 := by revert i; decide
  rw [h1, h2, BitVec.and_zero]

/-- `READBITS` (R140). -/
theorem EncodeMatchesTable.readbits (n : BitVec 6) :
    EncodeMatchesTable.Statement (.readbits n) := fun _ => ⟨rfl, BitVec.and_zero⟩

/-- `IDLE` (R165). -/
theorem EncodeMatchesTable.idle :
    EncodeMatchesTable.Statement .idle := fun _ => ⟨rfl, by decide⟩

/-- `S_AOT` (R160). -/
theorem EncodeMatchesTable.sAot :
    EncodeMatchesTable.Statement .sAot := fun _ => ⟨rfl, by decide⟩

/-- `S_AOT_EXT` (R161). -/
theorem EncodeMatchesTable.sAotExt :
    EncodeMatchesTable.Statement .sAotExt := fun _ => ⟨rfl, by decide⟩

/-- `S_SFI` (R162). -/
theorem EncodeMatchesTable.sSfi :
    EncodeMatchesTable.Statement .sSfi := fun _ => ⟨rfl, by decide⟩

/-- `S_RATE` (R163). -/
theorem EncodeMatchesTable.sRate :
    EncodeMatchesTable.Statement .sRate := fun _ => ⟨rfl, by decide⟩

/-- `S_CC` (R164). -/
theorem EncodeMatchesTable.sCc :
    EncodeMatchesTable.Statement .sCc := fun _ => ⟨rfl, by decide⟩

/-- `START` (R201). -/
theorem EncodeMatchesTable.start (data : Word) :
    EncodeMatchesTable.Statement (.start data) := by
  intro h
  have hd : data.getLsbD 0 = true := by simpa [Instr.wellFormed] using h
  refine ⟨rfl, (hostWord_and_start true 0x00#8 data).trans ?_⟩
  rw [hd]
  rfl

/-- `WR_CTRL_NOP` (R202). -/
theorem EncodeMatchesTable.wrCtrlNop (data : Word) :
    EncodeMatchesTable.Statement (.wrCtrlNop data) := by
  intro h
  have hd : data.getLsbD 0 = false := by simpa [Instr.wellFormed] using h
  refine ⟨rfl, (hostWord_and_start true 0x00#8 data).trans ?_⟩
  rw [hd]
  rfl

/-- `WR_ILEN` (R203). -/
theorem EncodeMatchesTable.wrIlen (data : Word) :
    EncodeMatchesTable.Statement (.wrIlen data) := fun _ => ⟨rfl, (hostWord_and_offset true 0x18#8 data).trans rfl⟩

/-- `WR_IBUF` (R204). -/
theorem EncodeMatchesTable.wrIbuf (i : BitVec 6) (data : Word) :
    EncodeMatchesTable.Statement (.wrIbuf i data) := by
  intro h
  have hi : i.toNat < 8 := by
    have h' := of_decide_eq_true h
    exact h'.1
  exact ⟨rfl, (hostWord_and_ibuf true i data hi).trans rfl⟩

/-- `RD_STATUS` (R205). -/
theorem EncodeMatchesTable.rdStatus (data : Word) :
    EncodeMatchesTable.Statement (.rdStatus data) := fun _ => ⟨rfl, (hostWord_and_offset false 0x04#8 data).trans rfl⟩

/-- `RD_ERRVAL` (R206). -/
theorem EncodeMatchesTable.rdErrval (data : Word) :
    EncodeMatchesTable.Statement (.rdErrval data) := fun _ => ⟨rfl, (hostWord_and_offset false 0x08#8 data).trans rfl⟩

/-- `RD_RES_AOT` (R207). -/
theorem EncodeMatchesTable.rdResAot (data : Word) :
    EncodeMatchesTable.Statement (.rdResAot data) := fun _ => ⟨rfl, (hostWord_and_offset false 0x0C#8 data).trans rfl⟩

/-- `RD_RES_RATE` (R208). -/
theorem EncodeMatchesTable.rdResRate (data : Word) :
    EncodeMatchesTable.Statement (.rdResRate data) := fun _ => ⟨rfl, (hostWord_and_offset false 0x10#8 data).trans rfl⟩

/-- `RD_RES_CH` (R209). -/
theorem EncodeMatchesTable.rdResCh (data : Word) :
    EncodeMatchesTable.Statement (.rdResCh data) := fun _ => ⟨rfl, (hostWord_and_offset false 0x14#8 data).trans rfl⟩

/-- `RD_ILEN` (R210). -/
theorem EncodeMatchesTable.rdIlen (data : Word) :
    EncodeMatchesTable.Statement (.rdIlen data) := fun _ => ⟨rfl, (hostWord_and_offset false 0x18#8 data).trans rfl⟩

/-- `RD_IBUF` (R211). -/
theorem EncodeMatchesTable.rdIbuf (i : BitVec 6) (data : Word) :
    EncodeMatchesTable.Statement (.rdIbuf i data) := by
  intro h
  have hi : i.toNat < 8 := by
    have h' := of_decide_eq_true h
    exact h'.1
  exact ⟨rfl, (hostWord_and_ibuf false i data hi).trans rfl⟩

/-- `RD_CTRL` (R212). -/
theorem EncodeMatchesTable.rdCtrl (data : Word) :
    EncodeMatchesTable.Statement (.rdCtrl data) := fun _ => ⟨rfl, (hostWord_and_offset false 0x00#8 data).trans rfl⟩

/-- `RD_RESERVED` (R213). -/
theorem EncodeMatchesTable.rdReserved (off : BitVec 8) (data : Word) :
    EncodeMatchesTable.Statement (.rdReserved off data) := fun _ => ⟨rfl, (hostWord_and_write false off data).trans rfl⟩

/-- `WR_IGNORED` (R214). -/
theorem EncodeMatchesTable.wrIgnored (off : BitVec 8) (data : Word) :
    EncodeMatchesTable.Statement (.wrIgnored off data) := fun _ => ⟨rfl, (hostWord_and_write true off data).trans rfl⟩

/-- `AOT_LC` (R160). -/
theorem EncodeMatchesTable.aotLc :
    EncodeMatchesTable.Statement .aotLc := fun _ => ⟨rfl, by decide⟩

/-- `AOT_ESCAPE` (R160). -/
theorem EncodeMatchesTable.aotEscape :
    EncodeMatchesTable.Statement .aotEscape := fun _ => ⟨rfl, by decide⟩

/-- `AOT_UNSUPPORTED` (R160). -/
theorem EncodeMatchesTable.aotUnsupported (v : BitVec 5) :
    EncodeMatchesTable.Statement (.aotUnsupported v) := fun _ => ⟨rfl, BitVec.and_zero⟩

/-- `AOT_EXT` (R161). -/
theorem EncodeMatchesTable.aotExt (v : BitVec 6) :
    EncodeMatchesTable.Statement (.aotExt v) := fun _ => ⟨rfl, BitVec.and_zero⟩

/-- `SFI_0` (R162). -/
theorem EncodeMatchesTable.sfi0 :
    EncodeMatchesTable.Statement .sfi0 := fun _ => ⟨rfl, by decide⟩

/-- `SFI_1` (R162). -/
theorem EncodeMatchesTable.sfi1 :
    EncodeMatchesTable.Statement .sfi1 := fun _ => ⟨rfl, by decide⟩

/-- `SFI_2` (R162). -/
theorem EncodeMatchesTable.sfi2 :
    EncodeMatchesTable.Statement .sfi2 := fun _ => ⟨rfl, by decide⟩

/-- `SFI_3` (R162). -/
theorem EncodeMatchesTable.sfi3 :
    EncodeMatchesTable.Statement .sfi3 := fun _ => ⟨rfl, by decide⟩

/-- `SFI_4` (R162). -/
theorem EncodeMatchesTable.sfi4 :
    EncodeMatchesTable.Statement .sfi4 := fun _ => ⟨rfl, by decide⟩

/-- `SFI_5` (R162). -/
theorem EncodeMatchesTable.sfi5 :
    EncodeMatchesTable.Statement .sfi5 := fun _ => ⟨rfl, by decide⟩

/-- `SFI_6` (R162). -/
theorem EncodeMatchesTable.sfi6 :
    EncodeMatchesTable.Statement .sfi6 := fun _ => ⟨rfl, by decide⟩

/-- `SFI_7` (R162). -/
theorem EncodeMatchesTable.sfi7 :
    EncodeMatchesTable.Statement .sfi7 := fun _ => ⟨rfl, by decide⟩

/-- `SFI_8` (R162). -/
theorem EncodeMatchesTable.sfi8 :
    EncodeMatchesTable.Statement .sfi8 := fun _ => ⟨rfl, by decide⟩

/-- `SFI_9` (R162). -/
theorem EncodeMatchesTable.sfi9 :
    EncodeMatchesTable.Statement .sfi9 := fun _ => ⟨rfl, by decide⟩

/-- `SFI_10` (R162). -/
theorem EncodeMatchesTable.sfi10 :
    EncodeMatchesTable.Statement .sfi10 := fun _ => ⟨rfl, by decide⟩

/-- `SFI_11` (R162). -/
theorem EncodeMatchesTable.sfi11 :
    EncodeMatchesTable.Statement .sfi11 := fun _ => ⟨rfl, by decide⟩

/-- `SFI_12` (R162). -/
theorem EncodeMatchesTable.sfi12 :
    EncodeMatchesTable.Statement .sfi12 := fun _ => ⟨rfl, by decide⟩

/-- `SFI_RSV_13` (R162). -/
theorem EncodeMatchesTable.sfiRsv13 :
    EncodeMatchesTable.Statement .sfiRsv13 := fun _ => ⟨rfl, by decide⟩

/-- `SFI_RSV_14` (R162). -/
theorem EncodeMatchesTable.sfiRsv14 :
    EncodeMatchesTable.Statement .sfiRsv14 := fun _ => ⟨rfl, by decide⟩

/-- `SFI_EXPLICIT` (R162). -/
theorem EncodeMatchesTable.sfiExplicit :
    EncodeMatchesTable.Statement .sfiExplicit := fun _ => ⟨rfl, by decide⟩

/-- `RATE_EXPLICIT` (R163). -/
theorem EncodeMatchesTable.rateExplicit (v : Rate) :
    EncodeMatchesTable.Statement (.rateExplicit v) := fun _ => ⟨rfl, BitVec.and_zero⟩

/-- `CC_PCE` (R164). -/
theorem EncodeMatchesTable.ccPce :
    EncodeMatchesTable.Statement .ccPce := fun _ => ⟨rfl, by decide⟩

/-- `CC_1` (R164). -/
theorem EncodeMatchesTable.cc1 :
    EncodeMatchesTable.Statement .cc1 := fun _ => ⟨rfl, by decide⟩

/-- `CC_2` (R164). -/
theorem EncodeMatchesTable.cc2 :
    EncodeMatchesTable.Statement .cc2 := fun _ => ⟨rfl, by decide⟩

/-- `CC_3` (R164). -/
theorem EncodeMatchesTable.cc3 :
    EncodeMatchesTable.Statement .cc3 := fun _ => ⟨rfl, by decide⟩

/-- `CC_4` (R164). -/
theorem EncodeMatchesTable.cc4 :
    EncodeMatchesTable.Statement .cc4 := fun _ => ⟨rfl, by decide⟩

/-- `CC_5` (R164). -/
theorem EncodeMatchesTable.cc5 :
    EncodeMatchesTable.Statement .cc5 := fun _ => ⟨rfl, by decide⟩

/-- `CC_6` (R164). -/
theorem EncodeMatchesTable.cc6 :
    EncodeMatchesTable.Statement .cc6 := fun _ => ⟨rfl, by decide⟩

/-- `CC_7` (R164). -/
theorem EncodeMatchesTable.cc7 :
    EncodeMatchesTable.Statement .cc7 := fun _ => ⟨rfl, by decide⟩

/-- `CC_RSV_8` (R164). -/
theorem EncodeMatchesTable.ccRsv8 :
    EncodeMatchesTable.Statement .ccRsv8 := fun _ => ⟨rfl, by decide⟩

/-- `CC_RSV_9` (R164). -/
theorem EncodeMatchesTable.ccRsv9 :
    EncodeMatchesTable.Statement .ccRsv9 := fun _ => ⟨rfl, by decide⟩

/-- `CC_RSV_10` (R164). -/
theorem EncodeMatchesTable.ccRsv10 :
    EncodeMatchesTable.Statement .ccRsv10 := fun _ => ⟨rfl, by decide⟩

/-- `CC_RSV_11` (R164). -/
theorem EncodeMatchesTable.ccRsv11 :
    EncodeMatchesTable.Statement .ccRsv11 := fun _ => ⟨rfl, by decide⟩

/-- `CC_RSV_12` (R164). -/
theorem EncodeMatchesTable.ccRsv12 :
    EncodeMatchesTable.Statement .ccRsv12 := fun _ => ⟨rfl, by decide⟩

/-- `CC_RSV_13` (R164). -/
theorem EncodeMatchesTable.ccRsv13 :
    EncodeMatchesTable.Statement .ccRsv13 := fun _ => ⟨rfl, by decide⟩

/-- `CC_RSV_14` (R164). -/
theorem EncodeMatchesTable.ccRsv14 :
    EncodeMatchesTable.Statement .ccRsv14 := fun _ => ⟨rfl, by decide⟩

/-- `CC_RSV_15` (R164). -/
theorem EncodeMatchesTable.ccRsv15 :
    EncodeMatchesTable.Statement .ccRsv15 := fun _ => ⟨rfl, by decide⟩

end Sys2Proof.Laws
end

