-- ==== Sys2Proof/Laws/Read.lean ====
section
/-! SUPPORT. What a bit field read and a decoder step's field read can do, said once. -/

namespace Sys2Proof.Laws

open Sys2Proof.Machine Sys2Proof.Safety

/-- Positions below 64 fit the cursor. -/
theorem cursorAt_of_lt (k : Nat) (h : k < 64) : cursorAt k = BitVec.ofNat 6 k := by
  simp [cursorAt, h]

/-- The numeric value of a cursor that fits. -/
theorem cursorAt_toNat (k : Nat) (h : k < 64) : (cursorAt k).toNat = k := by
  simp [cursorAt, h, Nat.mod_eq_of_lt]

/-- A field of `n` bits has a value below `2^n`. -/
theorem assembleBits_lt (bit : Nat → Bool) (p n : Nat) : assembleBits bit p n < 2 ^ n := by
  induction n with
  | zero => simp [assembleBits]
  | succ n ih =>
    have hb : (bit (p + n)).toNat ≤ 1 := Bool.toNat_le _
    simp only [assembleBits, Nat.pow_succ]
    omega

/-- The value of the next `n` bits is below `2^n`. -/
theorem nextBits_lt (n : Nat) (s : State) : nextBits n s < 2 ^ n := assembleBits_lt _ _ _

/-- The value of a field depends only on the bytes it lies in. -/
theorem fieldValue_congr (f g : Nat → Byte) (p n : Nat)
    (h : ∀ i, p / 8 ≤ i → i ≤ (p + n - 1) / 8 → f i = g i) :
    fieldValue f p n = fieldValue g p n := by
  unfold fieldValue
  induction n with
  | zero => rfl
  | succ n ih =>
    have hb : f ((p + n) / 8) = g ((p + n) / 8) := h _ (by omega) (by omega)
    simp only [assembleBits, streamBit, hb]
    rw [show assembleBits (streamBit f) p n = assembleBits (streamBit g) p n from
      ih (fun i h1 h2 => h i h1 (by omega))]

/-- Everything a read of `n` bits can do: three exclusive cases, in the order the Bit Reader tests
them. -/
theorem readBits_cases (n : Nat) (s : State) :
    (bitsLeft s < n ∧ readBits n s = .endOfInput) ∨
    (¬ bitsLeft s < n ∧ s.ibufBytes ≤ lastByteOf n s ∧
      readBits n s = .noByte (lastByteOf n s)) ∨
    (¬ bitsLeft s < n ∧ lastByteOf n s < s.ibufBytes ∧
      readBits n s = .value (nextBits n s) (s.advance n)) := by
  by_cases h1 : bitsLeft s < n
  · exact .inl ⟨h1, by simp [readBits, h1]⟩
  · by_cases h2 : s.ibufBytes ≤ lastByteOf n s
    · exact .inr (.inl ⟨h1, h2, by simp [readBits, h1, h2]⟩)
    · exact .inr (.inr ⟨h1, by omega, by simp [readBits, h1, h2, nextBits]⟩)

/-- A read whose bits and bytes are there and whose end fits the cursor gives the next bits. -/
theorem readBits_of_canRead (n : Nat) (s : State) (hn : 1 ≤ n) (h : canRead n s) :
    readBits n s = .value (nextBits n s) (afterRead n s) := by
  obtain ⟨h1, h2, h3⟩ := h
  have e1 : ¬ bitsLeft s < n := by simp only [bitsLeft]; omega
  have e2 : ¬ s.ibufBytes ≤ lastByteOf n s := by simp only [lastByteOf]; omega
  simp [readBits, e1, e2, nextBits, afterRead, State.advance, cursorAt_of_lt _ h3]

/-- A read past the end of the input reports end of input. -/
theorem readBits_of_endOfInput (n : Nat) (s : State) (h : endOfInput n s) (hn : 1 ≤ n) :
    readBits n s = .endOfInput := by
  have e1 : bitsLeft s < n := by simp only [bitsLeft, endOfInput] at *; omega
  simp [readBits, e1]

/-- A decoder step whose field is there goes on with the field's value. -/
theorem withField_of_canRead (n : Nat) (k : BitVec n → State → Out) (s : State) (hn : 1 ≤ n)
    (h : canRead n s) : withField n k s = k (BitVec.ofNat n (nextBits n s)) (afterRead n s) := by
  simp [withField, readBits_of_canRead n s hn h]

/-- A decoder step whose field is not there ends the decode. -/
theorem withField_of_endOfInput (n : Nat) (k : BitVec n → State → Out) (s : State)
    (h : endOfInput n s) (hn : 1 ≤ n) :
    withField n k s = .next (finishErr .endOfInput 0#7 s) := by
  simp [withField, readBits_of_endOfInput n s h hn]

/-- Everything a decoder step can do with its field read. -/
theorem withField_cases (n : Nat) (k : BitVec n → State → Out) (s : State) :
    (bitsLeft s < n ∧ withField n k s = .next (finishErr .endOfInput 0#7 s)) ∨
    (¬ bitsLeft s < n ∧ s.ibufBytes ≤ lastByteOf n s ∧
      withField n k s = .fault (.noInputByte (lastByteOf n s))) ∨
    (¬ bitsLeft s < n ∧ lastByteOf n s < s.ibufBytes ∧
      withField n k s = k (BitVec.ofNat n (nextBits n s)) (s.advance n)) := by
  rcases readBits_cases n s with ⟨h, e⟩ | ⟨h, h2, e⟩ | ⟨h, h2, e⟩
  · exact .inl ⟨h, by simp [withField, e]⟩
  · exact .inr (.inl ⟨h, h2, by simp [withField, e]⟩)
  · exact .inr (.inr ⟨h, h2, by simp [withField, e]⟩)

end Sys2Proof.Laws
end

