-- ==== Sys2Proof/Tests/Slice0.lean ====
section
/-! SUPPORT. Small tests, each on one operation or one step. Expected values are from the spec's
encodings (30_encoding.md, spec/opcode_table.json) and its vectors (95_test_vectors.md); a name such
as BR5 or H3 is the vector's own. The `witness_` theorems at the end show, for each statement with
hypotheses, states and operands that meet them. -/

namespace Sys2Proof.Tests

open Sys2Proof.Machine Sys2Proof.Safety

/-! ### Helpers -/

/-- An input memory holding these bytes from index 0. -/
def bytes (bs : List Byte) : Memory :=
  (List.range bs.length).foldl (fun m i => m.write i (bs.getD i 0#8)) []

/-- A block at a decoder state with `ILEN = L` and an input. -/
def block (st : BitVec 3) (pos : BitVec 6) (L : BitVec 8) (bs : List Byte) : State :=
  { State.reset with state := st, pos := pos, ilen := L, ibuf := bytes bs }

/-- The next state of an outcome, if it is one. -/
def nextOf : Out → Option State
  | .next s => some s
  | .fault _ => none
  | .refused _ => none

/-- The refusal of an outcome, if it is one. -/
def refusalOf : Out → Option Refusal
  | .next _ => none
  | .fault _ => none
  | .refused r => some r

/-- What a decoder step shows: `STATE`, `POS`, `DONE`, `KIND`, `ERRVAL`. -/
def shows (o : Out) : Option (BitVec 3 × BitVec 6 × Bool × BitVec 3 × BitVec 7) :=
  (nextOf o).map fun t => (t.state, t.pos, t.done, t.kind, t.errval)

/-- What a completing step shows of the record: `STATE`, `POS`, `RES_AOT`, `RES_RATE`, `RES_CH`. -/
def showsRec (o : Out) : Option (BitVec 3 × BitVec 6 × BitVec 7 × Rate × BitVec 4) :=
  (nextOf o).map fun t => (t.state, t.pos, t.resAot, t.resRate, t.resCh)

/-- The state after one host access, taken as the next turn. -/
def access (wr : Bool) (off : BitVec 8) (data : Word) (s : State) : Out :=
  step { s with turns := [.host (hostWord wr off data)] }

/-! ### Well-formedness: an ill-formed term for each check -/

theorem test_illformed_readbits :
    (Instr.readbits 0#6).wellFormed 8 = false ∧ (Instr.readbits 33#6).wellFormed 8 = false := by
  decide

theorem test_illformed_start : (Instr.start 0xFFFFFFFE#32).wellFormed 8 = false := by decide

theorem test_illformed_wrCtrlNop : (Instr.wrCtrlNop 1#32).wellFormed 8 = false := by decide

theorem test_illformed_wrIbuf :
    (Instr.wrIbuf 8#6 0#32).wellFormed 8 = false ∧ (Instr.wrIbuf 56#6 0#32).wellFormed 64 = false := by
  decide

theorem test_illformed_rdIbuf :
    (Instr.rdIbuf 5#6 0#32).wellFormed 5 = false ∧ (Instr.rdIbuf 63#6 0#32).wellFormed 64 = false := by
  decide

theorem test_illformed_rdReserved :
    (Instr.rdReserved 0x18#8 0#32).wellFormed 8 = false ∧
      (Instr.rdReserved 0x3C#8 0#32).wellFormed 8 = false := by decide

theorem test_illformed_wrIgnored :
    (Instr.wrIgnored 0x00#8 0#32).wellFormed 8 = false ∧
      (Instr.wrIgnored 0x20#8 0#32).wellFormed 8 = false := by decide

theorem test_illformed_aotUnsupported :
    (Instr.aotUnsupported 2#5).wellFormed 8 = false ∧
      (Instr.aotUnsupported 31#5).wellFormed 8 = false := by decide

/-! ### Decoding: every constructor, from words written out bit by bit -/

/-- `RDREQ`, R107. -/
theorem test_decode_rdreq :
    decode 8 (.rdreq 0b000001#6) = .ok (.readbits 1#6) ∧
    decode 8 (.rdreq 0b100000#6) = .ok (.readbits 32#6) ∧
    decode 8 (.rdreq 0b000000#6) = .error (.readWidth 0#6) ∧
    decode 8 (.rdreq 0b100001#6) = .error (.readWidth 33#6) := by decide

/-- `FSMSTATE`, R23. -/
theorem test_decode_fsmstate :
    decode 8 (.fsmstate 0b000#3) = .ok .idle ∧ decode 8 (.fsmstate 0b001#3) = .ok .sAot ∧
    decode 8 (.fsmstate 0b010#3) = .ok .sAotExt ∧ decode 8 (.fsmstate 0b011#3) = .ok .sSfi ∧
    decode 8 (.fsmstate 0b100#3) = .ok .sRate ∧ decode 8 (.fsmstate 0b101#3) = .ok .sCc ∧
    decode 8 (.fsmstate 0b110#3) = .error (.noSuchState 6#3) ∧
    decode 8 (.fsmstate 0b111#3) = .error (.noSuchState 7#3) := by decide

/-- `HOSTACC` writes, R104 and R105: `W` = 1, then eight bits of `OFF`, then 32 of `DATA`. -/
theorem test_decode_host_writes :
    decode 8 (.hostacc 0b10000000000000000000000000000000000000001#41) = .ok (.start 1#32) ∧
    decode 8 (.hostacc 0b10000000000000000000000000000000000000010#41) = .ok (.wrCtrlNop 2#32) ∧
    decode 8 (.hostacc 0b10001100000000000000000000000000000000101#41) = .ok (.wrIlen 5#32) ∧
    decode 8 (.hostacc 0b10010010000000000000000000000000010010000#41) = .ok (.wrIbuf 1#6 0x90#32) ∧
    decode 8 (.hostacc 0b10011110000000000000000000000000000010001#41) = .ok (.wrIbuf 7#6 0x11#32) ∧
    decode 8 (.hostacc 0b10100000000000000000000000000000000000011#41) =
      .ok (.wrIgnored 0x40#8 3#32) ∧
    decode 8 (.hostacc 0b10000010000000000000000000000000000000000#41) =
      .ok (.wrIgnored 0x04#8 0#32) := by decide

/-- `HOSTACC` reads, R104 and R105: `W` = 0, then eight bits of `OFF`, then 32 of `DATA`. -/
theorem test_decode_host_reads :
    decode 8 (.hostacc 0b00000000000000000000000000000000000000000#41) = .ok (.rdCtrl 0#32) ∧
    decode 8 (.hostacc 0b00000010000000000000000000000000000000000#41) = .ok (.rdStatus 0#32) ∧
    decode 8 (.hostacc 0b00000100000000000000000000000000000000000#41) = .ok (.rdErrval 0#32) ∧
    decode 8 (.hostacc 0b00000110000000000000000000000000000000000#41) = .ok (.rdResAot 0#32) ∧
    decode 8 (.hostacc 0b00001000000000000000000000000000000000000#41) = .ok (.rdResRate 0#32) ∧
    decode 8 (.hostacc 0b00001010000000000000000000000000000000000#41) = .ok (.rdResCh 0#32) ∧
    decode 8 (.hostacc 0b00001100000000000000000000000000000000000#41) = .ok (.rdIlen 0#32) ∧
    decode 8 (.hostacc 0b00010010000000000000000000000000000000000#41) = .ok (.rdIbuf 1#6 0#32) ∧
    decode 8 (.hostacc 0b00000010100000000000000000000000000000000#41) =
      .ok (.rdReserved 0x05#8 0#32) ∧
    decode 8 (.hostacc 0b00001110000000000000000000000000000000000#41) =
      .ok (.rdReserved 0x1C#8 0#32) := by decide

/-- Offset 0x40 is an input byte with 56 byte registers, a reserved offset with 8 (R30, R105). -/
theorem test_decode_ibuf_bytes :
    decode 56 (.hostacc 0b00100000000000000000000000000000000000000#41) = .ok (.rdIbuf 8#6 0#32) ∧
    decode 8 (.hostacc 0b00100000000000000000000000000000000000000#41) =
      .ok (.rdReserved 0x40#8 0#32) ∧
    decode 56 (.hostacc 0b01111110000000000000000000000000000000000#41) = .ok (.rdIbuf 55#6 0#32) := by
  decide

/-- `AOT5`, R94. -/
theorem test_decode_aot5 :
    decode 8 (.aot5 0b00010#5) = .ok .aotLc ∧ decode 8 (.aot5 0b11111#5) = .ok .aotEscape ∧
    decode 8 (.aot5 0b00000#5) = .ok (.aotUnsupported 0#5) ∧
    decode 8 (.aot5 0b11110#5) = .ok (.aotUnsupported 30#5) := by decide

/-- `AOTEXT`, R95. -/
theorem test_decode_aotext :
    decode 8 (.aotext 0b000000#6) = .ok (.aotExt 0#6) ∧
    decode 8 (.aotext 0b111111#6) = .ok (.aotExt 63#6) := by decide

/-- `SFI4`, R96. -/
theorem test_decode_sfi4 :
    decode 8 (.sfi4 0b0000#4) = .ok .sfi0 ∧ decode 8 (.sfi4 0b0001#4) = .ok .sfi1 ∧
    decode 8 (.sfi4 0b0010#4) = .ok .sfi2 ∧ decode 8 (.sfi4 0b0011#4) = .ok .sfi3 ∧
    decode 8 (.sfi4 0b0100#4) = .ok .sfi4 ∧ decode 8 (.sfi4 0b0101#4) = .ok .sfi5 ∧
    decode 8 (.sfi4 0b0110#4) = .ok .sfi6 ∧ decode 8 (.sfi4 0b0111#4) = .ok .sfi7 ∧
    decode 8 (.sfi4 0b1000#4) = .ok .sfi8 ∧ decode 8 (.sfi4 0b1001#4) = .ok .sfi9 ∧
    decode 8 (.sfi4 0b1010#4) = .ok .sfi10 ∧ decode 8 (.sfi4 0b1011#4) = .ok .sfi11 ∧
    decode 8 (.sfi4 0b1100#4) = .ok .sfi12 ∧ decode 8 (.sfi4 0b1101#4) = .ok .sfiRsv13 ∧
    decode 8 (.sfi4 0b1110#4) = .ok .sfiRsv14 ∧ decode 8 (.sfi4 0b1111#4) = .ok .sfiExplicit := by
  decide

/-- `SFIX`, R98. -/
theorem test_decode_sfix :
    decode 8 (.sfix 0b000000001011101110000000#24) = .ok (.rateExplicit 48000#24) := by decide

/-- `CC4`, R99. -/
theorem test_decode_cc4 :
    decode 8 (.cc4 0b0000#4) = .ok .ccPce ∧ decode 8 (.cc4 0b0001#4) = .ok .cc1 ∧
    decode 8 (.cc4 0b0010#4) = .ok .cc2 ∧ decode 8 (.cc4 0b0011#4) = .ok .cc3 ∧
    decode 8 (.cc4 0b0100#4) = .ok .cc4 ∧ decode 8 (.cc4 0b0101#4) = .ok .cc5 ∧
    decode 8 (.cc4 0b0110#4) = .ok .cc6 ∧ decode 8 (.cc4 0b0111#4) = .ok .cc7 ∧
    decode 8 (.cc4 0b1000#4) = .ok .ccRsv8 ∧ decode 8 (.cc4 0b1001#4) = .ok .ccRsv9 ∧
    decode 8 (.cc4 0b1010#4) = .ok .ccRsv10 ∧ decode 8 (.cc4 0b1011#4) = .ok .ccRsv11 ∧
    decode 8 (.cc4 0b1100#4) = .ok .ccRsv12 ∧ decode 8 (.cc4 0b1101#4) = .ok .ccRsv13 ∧
    decode 8 (.cc4 0b1110#4) = .ok .ccRsv14 ∧ decode 8 (.cc4 0b1111#4) = .ok .ccRsv15 := by decide

/-- Bare numbers of the table (log entry 15): a width of one format decides it, one byte does not. -/
theorem test_table_words :
    decodeTableWord 48 0x10000000001 = some (.start 1#32) ∧
    decodeTableWord 24 48000 = some (.rateExplicit 48000#24) ∧
    decodeTableWord 8 1 = some .sAot ∧ decodeTableWord 8 12 = some .sfi12 ∧
    decodeTableWord 8 31 = some .aotEscape ∧ decodeTableWord 8 40 = some (.aotExt 40#6) ∧
    decodeTableWord 48 0x20000000000 = none := by decide

/-! ### The Bit Reader (95_test_vectors.md section 2.1) -/

/-- One read: what is reported, and `POS` after. -/
def reads (bs : List Byte) (pos : BitVec 6) (n : BitVec 6) : Option (Option BitOut × BitVec 6) :=
  (nextOf (exec (.readbits n) (block 0#3 pos (BitVec.ofNat 8 bs.length) bs))).map
    fun t => (t.bitOut, t.pos)

/-- BR1 to BR10 and BR15 to BR17. -/
theorem test_readbits_short :
    [reads [0x11#8, 0x90#8] 0#6 5#6, reads [0x11#8, 0x90#8] 5#6 4#6,
     reads [0x11#8, 0x90#8] 9#6 4#6, reads [0x11#8, 0x90#8] 13#6 3#6,
     reads [0x11#8, 0x90#8] 13#6 4#6, reads [0x11#8, 0x90#8] 0#6 16#6,
     reads [0x11#8, 0x90#8] 0#6 17#6, reads [] 0#6 1#6, reads [0xFF#8] 7#6 1#6,
     reads [0xFF#8] 8#6 1#6, reads [0xF8#8, 0x14#8] 5#6 6#6, reads [0x80#8] 0#6 1#6,
     reads [0x01#8] 7#6 1#6] =
    [some (some (.value 2#32), 5#6), some (some (.value 3#32), 9#6),
     some (some (.value 2#32), 13#6), some (some (.value 0#32), 16#6),
     some (some .endOfInput, 13#6), some (some (.value 4496#32), 16#6),
     some (some .endOfInput, 0#6), some (some .endOfInput, 0#6), some (some (.value 1#32), 8#6),
     some (some .endOfInput, 8#6), some (some (.value 0#32), 11#6),
     some (some (.value 1#32), 1#6), some (some (.value 1#32), 8#6)] := by decide

/-- BR11 to BR14. -/
theorem test_readbits_wide :
    [reads [0x17#8, 0x80#8, 0x5D#8, 0xC0#8, 0x10#8] 9#6 24#6,
     reads [0x17#8, 0x80#8, 0x5D#8, 0xC0#8, 0x10#8] 7#6 32#6,
     reads [0x17#8, 0x80#8, 0x5D#8, 0xC0#8, 0x10#8] 8#6 32#6,
     reads [0x17#8, 0x80#8, 0x5D#8, 0xC0#8, 0x10#8] 0#6 32#6] =
    [some (some (.value 0xBB80#32), 33#6), some (some (.value 0xC02EE008#32), 39#6),
     some (some (.value 0x805DC010#32), 40#6), some (some (.value 0x17805DC0#32), 32#6)] := by decide

/-! ### The decoder's steps (95_test_vectors.md sections 2.2 to 2.5), one step each -/

/-- AOT-0, AOT-1, AOT-3, AOT-30, EOI-0, EOI-1c: the first step of each. -/
theorem test_sAot_errors :
    [shows (step (block Fsm.sAot 0#6 2#8 [0x01#8, 0x90#8])),
     shows (step (block Fsm.sAot 0#6 2#8 [0x09#8, 0x90#8])),
     shows (step (block Fsm.sAot 0#6 2#8 [0x19#8, 0x90#8])),
     shows (step (block Fsm.sAot 0#6 2#8 [0xF1#8, 0x90#8])),
     shows (step (block Fsm.sAot 0#6 0#8 [])), shows (step (block Fsm.sAot 0#6 1#8 [0x08#8]))] =
    [some (0#3, 5#6, true, 2#3, 0#7), some (0#3, 5#6, true, 2#3, 1#7),
     some (0#3, 5#6, true, 2#3, 3#7), some (0#3, 5#6, true, 2#3, 30#7),
     some (0#3, 0#6, true, 1#3, 0#7), some (0#3, 5#6, true, 2#3, 1#7)] := by decide

/-- AOT-2, AOT-31: the first step of each. -/
theorem test_sAot_goes_on :
    shows (step (block Fsm.sAot 0#6 2#8 [0x11#8, 0x90#8])) = some (3#3, 5#6, false, 0#3, 0#7) ∧
    shows (step (block Fsm.sAot 0#6 2#8 [0xF8#8, 0x00#8])) = some (2#3, 5#6, false, 0#3, 0#7) := by
  decide

/-- AOT-31, EXT-1, EXT-30, EXT-63, EOI-1b: the second step of each. -/
theorem test_sAotExt :
    [shows (step (block Fsm.sAotExt 5#6 2#8 [0xF8#8, 0x00#8])),
     shows (step (block Fsm.sAotExt 5#6 3#8 [0xF8#8, 0x26#8, 0x40#8])),
     shows (step (block Fsm.sAotExt 5#6 3#8 [0xFB#8, 0xC6#8, 0x40#8])),
     shows (step (block Fsm.sAotExt 5#6 3#8 [0xFF#8, 0xE6#8, 0x40#8])),
     shows (step (block Fsm.sAotExt 5#6 1#8 [0xF8#8]))] =
    [some (0#3, 11#6, true, 2#3, 32#7), some (0#3, 11#6, true, 2#3, 33#7),
     some (0#3, 11#6, true, 2#3, 62#7), some (0#3, 11#6, true, 2#3, 95#7),
     some (0#3, 5#6, true, 1#3, 0#7)] := by decide

/-- SFI-0 to SFI-12: what the second step latches. -/
theorem test_sSfi_table :
    ([[0x10#8, 0x10#8], [0x10#8, 0x90#8], [0x11#8, 0x10#8], [0x11#8, 0x90#8], [0x12#8, 0x10#8],
      [0x12#8, 0x90#8], [0x13#8, 0x10#8], [0x13#8, 0x90#8], [0x14#8, 0x10#8], [0x14#8, 0x90#8],
      [0x15#8, 0x10#8], [0x15#8, 0x90#8], [0x16#8, 0x10#8]].map fun bs =>
        (nextOf (step (block Fsm.sSfi 5#6 2#8 bs))).map fun t => (t.state, t.pos, t.lRate)) =
    [96000#24, 88200#24, 64000#24, 48000#24, 44100#24, 32000#24, 24000#24, 22050#24, 16000#24,
      12000#24, 11025#24, 8000#24, 7350#24].map fun r => some (5#3, 9#6, r) := by decide

/-- SFI-13, SFI-14, SFI-15, EOI-1a and PRIO: the second step of each. -/
theorem test_sSfi_others :
    [shows (step (block Fsm.sSfi 5#6 2#8 [0x16#8, 0x90#8])),
     shows (step (block Fsm.sSfi 5#6 2#8 [0x17#8, 0x10#8])),
     shows (step (block Fsm.sSfi 5#6 5#8 [0x17#8, 0x80#8, 0x56#8, 0x22#8, 0x10#8])),
     shows (step (block Fsm.sSfi 5#6 1#8 [0x10#8])),
     shows (step (block Fsm.sSfi 5#6 2#8 [0x17#8, 0x70#8]))] =
    [some (0#3, 9#6, true, 3#3, 13#7), some (0#3, 9#6, true, 3#3, 14#7),
     some (4#3, 9#6, false, 0#3, 0#7), some (0#3, 5#6, true, 1#3, 0#7),
     some (0#3, 9#6, true, 3#3, 14#7)] := by
  decide

/-- RATE-0, RATE-13, RATE-48000, RATE-192000, RATE-MAX: what the third step latches. -/
theorem test_sRate :
    ([[0x17#8, 0x80#8, 0x00#8, 0x00#8, 0x08#8], [0x17#8, 0x80#8, 0x00#8, 0x06#8, 0x88#8],
      [0x17#8, 0x80#8, 0x5D#8, 0xC0#8, 0x08#8], [0x17#8, 0x81#8, 0x77#8, 0x00#8, 0x08#8],
      [0x17#8, 0xFF#8, 0xFF#8, 0xFF#8, 0x88#8]].map fun bs =>
        (nextOf (step (block Fsm.sRate 9#6 5#8 bs))).map fun t => (t.state, t.pos, t.lRate)) =
    [0#24, 13#24, 48000#24, 192000#24, 16777215#24].map fun r => some (5#3, 33#6, r) := by decide

/-- EOI-4b: the third step. -/
theorem test_sRate_endOfInput :
    shows (step (block Fsm.sRate 9#6 4#8 [0x17#8, 0x80#8, 0x5D#8, 0xC0#8, 0x10#8])) =
      some (0#3, 9#6, true, 1#3, 0#7) := by decide

/-- CC-1 to CC-7: the third step, with 48000 latched. -/
theorem test_sCc_records :
    ([0x88#8, 0x90#8, 0x98#8, 0xA0#8, 0xA8#8, 0xB0#8, 0xB8#8].map fun b =>
        showsRec (step { block Fsm.sCc 9#6 2#8 [0x11#8, b] with lRate := 48000#24 })) =
    [1#4, 2#4, 3#4, 4#4, 5#4, 6#4, 8#4].map fun c => some (0#3, 13#6, 2#7, 48000#24, c) := by decide

/-- CC-0 and CC-8 to CC-15: the third step. -/
theorem test_sCc_errors :
    ([0x80#8, 0xC0#8, 0xC8#8, 0xD0#8, 0xD8#8, 0xE0#8, 0xE8#8, 0xF0#8, 0xF8#8].map fun b =>
        shows (step (block Fsm.sCc 9#6 2#8 [0x11#8, b]))) =
    [(5#3, 0#7), (4#3, 8#7), (4#3, 9#7), (4#3, 10#7), (4#3, 11#7), (4#3, 12#7), (4#3, 13#7),
      (4#3, 14#7), (4#3, 15#7)].map fun e => some (0#3, 13#6, true, e.1, e.2) := by decide

/-- R165, R254: in `IDLE` the decoder's turn changes nothing. -/
theorem test_idle : nextOf (step (block Fsm.idle 13#6 2#8 [0x11#8, 0x90#8])) =
    some (block Fsm.idle 13#6 2#8 [0x11#8, 0x90#8]) := by decide

/-- R165 and 92_eei_decisions.md D28: codes that no rule writes are refused. -/
theorem test_refused_codes :
    refusalOf (step (block 6#3 0#6 0#8 [])) = some (.unreachableState 6#3) ∧
    refusalOf (step { State.reset with kind := 7#3 }) = some (.unreachableKind 7#3) ∧
    refusalOf (exec (.readbits 33#6) State.reset) = some (.readWidth 33#6) := by decide

/-! ### The host accesses (95_test_vectors.md section 2.7) -/

/-- S1 completed. -/
def afterS1 : State :=
  { block Fsm.idle 13#6 2#8 [0x11#8, 0x90#8] with
    lRate := 48000#24, done := true, resAot := 2#7, resRate := 48000#24, resCh := 2#4 }

/-- S6 completed. -/
def afterS6 : State :=
  { block Fsm.idle 13#6 2#8 [0x11#8, 0xF0#8] with
    lRate := 48000#24, done := true, kind := 4#3, errval := 14#7 }

/-- A decode in progress, at `S_SFI`. -/
def atSfi : State := block Fsm.sSfi 5#6 2#8 [0x11#8, 0x90#8]

/-- The value a read access returns, and that the block stays as it was. -/
def readBack (off : BitVec 8) (s : State) : Option (Option Word × Bool) :=
  (nextOf (access false off 0#32 s)).map fun t =>
    (t.hostRead, decide ({ t with hostRead := s.hostRead, turns := s.turns } = s))

/-- H1, H4, and `STATUS` after S1 and S6 (H12's value). -/
theorem test_rdStatus :
    readBack 0x04#8 State.reset = some (some 0#32, true) ∧
    readBack 0x04#8 atSfi = some (some 1#32, true) ∧
    readBack 0x04#8 afterS1 = some (some 2#32, true) ∧
    readBack 0x04#8 afterS6 = some (some 0x42#32, true) := by decide

/-- The result and error registers: R206, R207, H13, R209. -/
theorem test_rdResults :
    readBack 0x08#8 afterS6 = some (some 14#32, true) ∧
    readBack 0x0C#8 afterS1 = some (some 2#32, true) ∧
    readBack 0x10#8 afterS1 = some (some 0xBB80#32, true) ∧
    readBack 0x14#8 afterS1 = some (some 2#32, true) := by decide

/-- R210, R211, H8. -/
theorem test_rdInput :
    readBack 0x18#8 afterS1 = some (some 2#32, true) ∧
    readBack 0x24#8 afterS1 = some (some 0x90#32, true) ∧
    readBack 0x3C#8 afterS1 = some (some 0#32, true) ∧
    readBack 0x00#8 afterS1 = some (some 0#32, true) := by decide

/-- H9, H10, H11: reserved offsets. -/
theorem test_rdReserved :
    readBack 0x1C#8 afterS1 = some (some 0#32, true) ∧
    readBack 0x40#8 afterS1 = some (some 0#32, true) ∧
    readBack 0x05#8 afterS1 = some (some 0#32, true) := by decide

/-- H3: START when idle. -/
theorem test_start :
    (nextOf (access true 0x00#8 1#32 { afterS6 with kind := 2#3, errval := 32#7 })).map (fun t =>
      ((t.state, t.pos, t.lRate), (t.done, t.kind, t.errval, t.ilen))) =
    some ((1#3, 0#6, 0#24), (false, 0#3, 0#7, 2#8)) := by decide

/-- H5, H6, H7: writes while busy are ignored. -/
theorem test_writes_while_busy :
    nextOf (access true 0x00#8 1#32 atSfi) = some atSfi ∧
    nextOf (access true 0x24#8 0xF0#32 atSfi) = some atSfi ∧
    nextOf (access true 0x18#8 5#32 atSfi) = some atSfi := by decide

/-- H15 and H12: writes that change nothing. -/
theorem test_writes_ignored :
    nextOf (access true 0x00#8 0#32 afterS1) = some afterS1 ∧
    nextOf (access true 0x04#8 0#32 afterS6) = some afterS6 := by decide

/-- H2 and H16. -/
theorem test_input_writes :
    (nextOf (access true 0x18#8 0x102#32 State.reset)).map (·.ilen) = some 2#8 ∧
    (nextOf (access true 0x20#8 0xFFFFFF11#32 State.reset)).map (·.ibuf) = some [(0, 0x11#8)] ∧
    (nextOf (access true 0x20#8 0#32 afterS1)).map (·.ibuf) = some [(1, 0x90#8)] := by decide

/-- RS1: a reset during a decode. -/
theorem test_reset :
    nextOf (step { block Fsm.sRate 9#6 5#8 [0x17#8, 0x80#8, 0x5D#8, 0xC0#8, 0x10#8] with
      turns := [.rst] }) = some State.reset := by decide

/-- RS2: the START right after reset, and the step after it. -/
theorem test_start_after_reset :
    (nextOf (access true 0x00#8 1#32 State.reset)).map (fun t => shows (step t)) =
      some (some (0#3, 0#6, true, 1#3, 0#7)) := by decide

/-! ### The function, the notation of inputs, several blocks -/

/-- R108: the examples of the notation; AOT-31 for the extended path. -/
theorem test_asc_notation :
    ascTablePath 2 3 2 = [0x11#8, 0x90#8] ∧
    ascExplicitPath 2 48000 2 = [0x17#8, 0x80#8, 0x5D#8, 0xC0#8, 0x10#8] ∧
    ascExtendedPath 0 = [0xF8#8, 0x00#8] := by decide

/-- TRAIL, PRIO, EXT-63 and RATE-0 through the function. -/
theorem test_decode_function :
    decodeAsc [0x11#8, 0x97#8] = .ok ⟨.aacLc, 48000#24, 2#4⟩ ∧
    decodeAsc [0x17#8, 0x70#8] = .err .invalidSfi 14#7 ∧
    decodeAsc [0xFF#8, 0xE6#8, 0x40#8] = .err .unsupportedType 95#7 ∧
    decodeAsc [0x17#8, 0x80#8, 0x00#8, 0x00#8, 0x08#8] = .ok ⟨.aacLc, 0#24, 1#4⟩ := by decide

/-- R70, R252: an access at 0x1118 is `ILEN` of the block at 0x1100. -/
theorem test_present :
    (System.present 0x1118 true 2#32 [⟨0x1000, State.reset⟩, ⟨0x1100, State.reset⟩]).map
      (fun p => p.block.turns) = [[], [.host (hostWord true 0x18#8 2#32)]] := by decide

/-! ### Witnesses: states and operands that meet the hypotheses of the statements

One theorem for each statement of Sys2Proof/Certificates/Slice0/Obligations.lean that has hypotheses,
under its name; each clause has its own values, at the edges of its range. -/

/-- The input of vector EOI-5b. -/
def explicitInput : List Byte := [0x17#8, 0x80#8, 0x5D#8, 0xC0#8, 0x10#8]

/-- The block during the decode of `explicitInput`, at a state code and position. -/
def during (st : BitVec 3) (pos : BitVec 6) : State := block st pos 5#8 explicitInput

/-- A state whose first turn is no reset. -/
theorem noReset_of (s : State) (h : s.turns.head? ≠ some .rst) : noResetTurn s := by
  intro ts e
  rw [e] at h
  exact h rfl

/-- The widest operands of each kind of host row. -/
theorem witness_DecodeOfEncode :
    (Instr.wrIbuf 55#6 5#32).wellFormed 56 = true ∧ (Instr.rdIbuf 0#6 5#32).wellFormed 5 = true ∧
    (Instr.readbits 1#6).wellFormed 8 = true ∧ (Instr.readbits 32#6).wellFormed 8 = true ∧
    (Instr.rdReserved 0x40#8 7#32).wellFormed 8 = true ∧
    (Instr.wrIgnored 0x04#8 7#32).wellFormed 8 = true ∧
    (Instr.aotUnsupported 30#5).wellFormed 8 = true ∧ (Instr.start 1#32).wellFormed 8 = true ∧
    (Instr.wrCtrlNop 2#32).wellFormed 8 = true ∧ Instr.sfi12.wellFormed 8 = true := by decide

theorem witness_EncodeOfDecode :
    decode 8 (.hostacc (hostWord true 0x3C#8 9#32)) = .ok (.wrIbuf 7#6 9#32) ∧
    decode 8 (.rdreq 32#6) = .ok (.readbits 32#6) := by decide

/-- Both kinds of control write, the first and the last input byte, a reserved offset of each kind. -/
theorem witness_HostAccessMap :
    (1#32).getLsbD 0 = true ∧ (2#32).getLsbD 0 = false ∧
    (0#6).toNat < 5 ∧ (55#6).toNat < 56 ∧
    (0x05#8 ∉ [0x00#8, 0x04#8, 0x08#8, 0x0C#8, 0x10#8, 0x14#8, 0x18#8] ∧
      ∀ i : Nat, i < 8 → (0x05#8).toNat ≠ 0x20 + 4 * i) ∧
    (0x04#8 ∉ [0x00#8, 0x18#8] ∧ ∀ i : Nat, i < 8 → (0x40#8).toNat ≠ 0x20 + 4 * i) := by decide

theorem witness_FieldIsWeightedSum : (24 : Nat) ≤ 24 := by decide

theorem witness_FieldClosedForm : (8 : Nat) + 32 ≤ 40 ∧ (33 : Nat) + 4 ≤ 40 := by decide

/-- The widest read that is there, the last bits that are there, and one bit too many. -/
theorem witness_ReadBitsWritesOnlyTheCursor :
    (1 ≤ (32#6).toNat ∧ (32#6).toNat ≤ 32 ∧ canRead (32#6).toNat (during 0#3 8#6)) ∧
    (1 ≤ (1#6).toNat ∧ canRead (1#6).toNat (during 0#3 39#6)) ∧
    endOfInput (1#6).toNat (during 0#3 40#6) ∧
    (nextOf (exec (.readbits 1#6) (during 0#3 40#6))).isSome = true := by
  unfold canRead endOfInput; decide

/-- A byte the block does not have; a cursor that would pass 63. -/
theorem witness_ReadBitsOutsideTheBlock :
    (let s := { block 0#3 39#6 6#8 [] with ibufBytes := 5 };
      s.pos.toNat + (2#6).toNat ≤ 8 * s.ilen.toNat ∧ 8 * s.ibufBytes < s.pos.toNat + (2#6).toNat) ∧
    (let s := { block 0#3 63#6 8#8 [] with ibufBytes := 8 };
      s.pos.toNat + (1#6).toNat ≤ 8 * s.ilen.toNat ∧ s.pos.toNat + (1#6).toNat ≤ 8 * s.ibufBytes ∧
      64 ≤ s.pos.toNat + (1#6).toNat) := by decide

theorem witness_ReadWidthRefused : (0#6 = 0#6) ∧ 32 < (33#6).toNat := by decide

/-- Idle with the decoder's turn; a START that leaves `IDLE`; the codes that are refused. -/
theorem witness_IdleOnlyStartLeaves :
    (legalCodes State.reset ∧ State.reset.state = Fsm.idle ∧ decoderTurn State.reset) ∧
    ((nextOf (access true 0x00#8 1#32 State.reset)).map (fun t => decide (t.state ≠ Fsm.idle)) =
      some true) ∧
    6 ≤ (block 6#3 0#6 0#8 []).state.toNat ∧
    (({ State.reset with kind := 6#3 } : State).state.toNat ≤ 5 ∧
      6 ≤ ({ State.reset with kind := 6#3 } : State).kind.toNat) :=
  ⟨⟨by unfold legalCodes; decide, rfl, .inl rfl⟩, by decide, by decide, by decide⟩

/-- Each clause: an empty input, types 31, 2 and 30. -/
theorem witness_AotStep :
    endOfInput 5 (block Fsm.sAot 0#6 0#8 []) ∧
    (canRead 5 (block Fsm.sAot 0#6 1#8 [0xF8#8]) ∧
      nextBits 5 (block Fsm.sAot 0#6 1#8 [0xF8#8]) = 31) ∧
    (canRead 5 (block Fsm.sAot 0#6 1#8 [0x10#8]) ∧
      nextBits 5 (block Fsm.sAot 0#6 1#8 [0x10#8]) = 2) ∧
    (canRead 5 (block Fsm.sAot 0#6 1#8 [0xF0#8]) ∧
      nextBits 5 (block Fsm.sAot 0#6 1#8 [0xF0#8]) = 30) ∧
    (block Fsm.sAot 0#6 0#8 []).pos = 0#6 := by
  unfold endOfInput canRead; decide

/-- Each clause: one byte only, and the widest extension. -/
theorem witness_AotExtStep :
    endOfInput 6 (block Fsm.sAotExt 5#6 1#8 [0xF8#8]) ∧
    (canRead 6 (block Fsm.sAotExt 5#6 2#8 [0xFF#8, 0xE0#8]) ∧
      nextBits 6 (block Fsm.sAotExt 5#6 2#8 [0xFF#8, 0xE0#8]) = 63) ∧
    (block Fsm.sAotExt 5#6 1#8 [0xF8#8]).pos = 5#6 := by
  unfold endOfInput canRead; decide

/-- Each clause: one byte only, and indices 15, 13, 14, 12 and 0. -/
theorem witness_SfiStep :
    endOfInput 4 (block Fsm.sSfi 5#6 1#8 [0x10#8]) ∧
    ((∀ b ∈ [[0x17#8, 0x80#8], [0x16#8, 0x90#8], [0x17#8, 0x10#8], [0x16#8, 0x10#8], [0x10#8, 0x10#8]],
        canRead 4 (block Fsm.sSfi 5#6 2#8 b)) ∧
      [[0x17#8, 0x80#8], [0x16#8, 0x90#8], [0x17#8, 0x10#8], [0x16#8, 0x10#8], [0x10#8, 0x10#8]].map
        (fun b => nextBits 4 (block Fsm.sSfi 5#6 2#8 b)) = [15, 13, 14, 12, 0]) ∧
    (block Fsm.sSfi 5#6 1#8 [0x10#8]).pos = 5#6 := by
  unfold endOfInput canRead; decide

/-- Each clause: one byte short, and the exact length. -/
theorem witness_RateStep :
    endOfInput 24 (block Fsm.sRate 9#6 4#8 explicitInput) ∧ canRead 24 (during Fsm.sRate 9#6) ∧
    (during Fsm.sRate 9#6).pos = 9#6 := by
  unfold endOfInput canRead; decide

/-- Each clause: a cursor no decode has, and configurations 0, 1, 6, 7, 8 and 15. -/
theorem witness_CcStep :
    endOfInput 4 (block Fsm.sCc 13#6 2#8 [0x11#8, 0x90#8]) ∧
    (∀ b ∈ [0x80#8, 0x88#8, 0xB0#8, 0xB8#8, 0xC0#8, 0xF8#8],
      canRead 4 (block Fsm.sCc 9#6 2#8 [0x11#8, b])) ∧
    [0x80#8, 0x88#8, 0xB0#8, 0xB8#8, 0xC0#8, 0xF8#8].map
      (fun b => nextBits 4 (block Fsm.sCc 9#6 2#8 [0x11#8, b])) = [0, 1, 6, 7, 8, 15] := by
  unfold endOfInput canRead; decide

/-- The invariant at a busy state: `S_CC` on the explicit path. -/
theorem inv_during_sCc : BlockInv (during Fsm.sCc 33#6) where
  bytes := by decide
  memory := by unfold memoryOk; decide
  stateCode := by decide
  cursor := by unfold cursorOk; decide
  whileBusy := by unfold resultsClear; decide
  beforeDone := by unfold resultsClear; decide
  whenDone := by intro h; cases h

/-- The invariant at the state a START leaves. -/
theorem inv_during_sAot : BlockInv (during Fsm.sAot 0#6) where
  bytes := by decide
  memory := by unfold memoryOk; decide
  stateCode := by decide
  cursor := by unfold cursorOk; decide
  whileBusy := by unfold resultsClear; decide
  beforeDone := by unfold resultsClear; decide
  whenDone := by intro h; cases h

/-- The same state with eight turns to come, four of them the decoder's. -/
def scheduled : State :=
  { during Fsm.sAot 0#6 with
    turns := [.host (hostWord false 0x04#8 0#32), .decoder, .decoder,
      .host (hostWord true 0x18#8 0#32), .decoder, .host (hostWord true 0x00#8 1#32), .decoder,
      .host (hostWord false 0x10#8 0#32)] }

theorem inv_scheduled : BlockInv scheduled where
  bytes := by decide
  memory := by unfold memoryOk; decide
  stateCode := by decide
  cursor := by unfold cursorOk; decide
  whileBusy := by unfold resultsClear; decide
  beforeDone := by unfold resultsClear; decide
  whenDone := by intro h; cases h

theorem witness_ChannelFieldNeverShort :
    BlockInv (during Fsm.sCc 33#6) ∧ (during Fsm.sCc 33#6).state = Fsm.sCc := ⟨inv_during_sCc, rfl⟩

/-- Each width at the last position where it fits. -/
theorem witness_DecoderStepRunsFieldRow :
    ∀ np ∈ [(5, 0#6), (6, 5#6), (4, 9#6), (24, 9#6), (4, 36#6)],
      (during Fsm.sCc np.2).pos.toNat + np.1 ≤ 8 * (during Fsm.sCc np.2).ilen.toNat ∧
      (during Fsm.sCc np.2).pos.toNat + np.1 ≤ 8 * (during Fsm.sCc np.2).ibufBytes := by decide

theorem witness_DecoderStepOutsideTheBlock :
    let s := { block Fsm.sCc 37#6 6#8 [] with ibufBytes := 5 }
    (Instr.sCc, 4) ∈
      [(Instr.sAot, 5), (Instr.sAotExt, 6), (Instr.sSfi, 4), (Instr.sRate, 24), (Instr.sCc, 4)] ∧
    s.pos.toNat + 4 ≤ 8 * s.ilen.toNat ∧ 8 * s.ibufBytes < s.pos.toNat + 4 := by decide

theorem witness_BaseTypeActions :
    (0#5 ≠ 2#5 ∧ 0#5 ≠ 31#5) ∧ (30#5 ≠ 2#5 ∧ 30#5 ≠ 31#5) := by decide

theorem witness_FreqIdxActions :
    (Instr.sfi12, 12) ∈ [(Instr.sfi0, 0), (Instr.sfi1, 1), (Instr.sfi2, 2), (Instr.sfi3, 3),
      (Instr.sfi4, 4), (Instr.sfi5, 5), (Instr.sfi6, 6), (Instr.sfi7, 7), (Instr.sfi8, 8),
      (Instr.sfi9, 9), (Instr.sfi10, 10), (Instr.sfi11, 11), (Instr.sfi12, 12)] ∧
    (Instr.sfiRsv13, 13) ∈ [(Instr.sfiRsv13, 13), (Instr.sfiRsv14, 14)] := by decide

theorem witness_ChanCfgActions :
    (Instr.cc7, 7, 8) ∈ [(Instr.cc1, 1, 1), (Instr.cc2, 2, 2), (Instr.cc3, 3, 3), (Instr.cc4, 4, 4),
      (Instr.cc5, 5, 5), (Instr.cc6, 6, 6), (Instr.cc7, 7, 8)] ∧
    (Instr.ccRsv15, 15) ∈ [(Instr.ccRsv8, 8), (Instr.ccRsv9, 9), (Instr.ccRsv10, 10),
      (Instr.ccRsv11, 11), (Instr.ccRsv12, 12), (Instr.ccRsv13, 13), (Instr.ccRsv14, 14),
      (Instr.ccRsv15, 15)] := by decide

/-- Both cases: idle and busy. -/
theorem witness_StartAndControlWrites :
    afterS1.state = Fsm.idle ∧ atSfi.state ≠ Fsm.idle := by decide

theorem witness_WriteInputLength : State.reset.state = Fsm.idle ∧ atSfi.state ≠ Fsm.idle := by decide

/-- The last byte register, idle and busy. -/
theorem witness_WriteInputByte :
    (memoryOk afterS1 ∧ (7#6).toNat < afterS1.ibufBytes ∧ afterS1.state = Fsm.idle) ∧
    (memoryOk atSfi ∧ (0#6).toNat < atSfi.ibufBytes ∧ atSfi.state ≠ Fsm.idle) := by
  unfold memoryOk; decide

/-- The first index that is no register, idle and busy; a word that selects the last one. -/
theorem witness_NoSuchInputByte :
    (afterS1.ibufBytes ≤ (8#6).toNat ∧ afterS1.state = Fsm.idle) ∧
    (atSfi.ibufBytes ≤ (8#6).toNat ∧ atSfi.state ≠ Fsm.idle) ∧
    decodeHost 8 (hostWord true 0x3C#8 1#32) = .wrIbuf 7#6 1#32 ∧
    decodeHost 8 (hostWord false 0x3C#8 1#32) = .rdIbuf 7#6 1#32 := by decide

/-- The invariant after a success. -/
theorem inv_afterS1 : BlockInv afterS1 where
  bytes := by decide
  memory := by unfold memoryOk; decide
  stateCode := by decide
  cursor := by unfold cursorOk; decide
  whileBusy := fun h => absurd rfl h
  beforeDone := by intro h; cases h
  whenDone := by unfold showsRecord channelCountOk; intro _; left; decide

/-- The invariant after an error. -/
theorem inv_afterS6 : BlockInv afterS6 where
  bytes := by decide
  memory := by unfold memoryOk; decide
  stateCode := by decide
  cursor := by unfold cursorOk; decide
  whileBusy := fun h => absurd rfl h
  beforeDone := by intro h; cases h
  whenDone := by unfold showsError payloadOk; intro _; right; decide

theorem witness_ReadStatus :
    BlockInv (during Fsm.sCc 33#6) ∧ (during Fsm.sCc 33#6).state ≠ Fsm.idle :=
  ⟨inv_during_sCc, by decide⟩

/-- The last byte register; a success; an error, whose payload is not 0; a decode in progress. -/
theorem witness_ReadRegisters :
    (7#6).toNat < afterS1.ibufBytes ∧
    (BlockInv afterS1 ∧ afterS1.done = true ∧ afterS1.kind = 0#3) ∧
    (BlockInv afterS6 ∧ ¬ (afterS6.done = true ∧ afterS6.kind = 0#3)) ∧
    (BlockInv (during Fsm.sCc 33#6) ∧ (during Fsm.sCc 33#6).done = false) :=
  ⟨by decide, ⟨inv_afterS1, rfl, rfl⟩, ⟨inv_afterS6, by decide⟩, inv_during_sCc, rfl⟩

/-- A state whose next turn is a host access. -/
def withAccess (wr : Bool) (off : BitVec 8) (data : Word) (s : State) : State :=
  { s with turns := [.host (hostWord wr off data)] }

theorem witness_ReservedOffsets :
    legalCodes (withAccess false 0x1C#8 0#32 afterS1) ∧
    (∀ i : Nat, i < (withAccess false 0x1C#8 0#32 afterS1).ibufBytes →
      (0x1C#8).toNat ≠ 0x20 + 4 * i) ∧
    0x1C#8 ∉ [0x00#8, 0x04#8, 0x08#8, 0x0C#8, 0x10#8, 0x14#8, 0x18#8] ∧
    (withAccess false 0x1C#8 0#32 afterS1).turns = Turn.host (hostWord false 0x1C#8 0#32) :: [] ∧
    0x04#8 ∉ [0x00#8, 0x18#8] ∧
    (∀ i : Nat, i < (withAccess true 0x04#8 0#32 afterS1).ibufBytes →
      (0x04#8).toNat ≠ 0x20 + 4 * i) ∧
    (withAccess true 0x04#8 0#32 afterS1).turns = Turn.host (hostWord true 0x04#8 0#32) :: [] := by
  unfold legalCodes; decide

theorem witness_HostAccessCompletes :
    legalCodes (withAccess true 0x00#8 1#32 atSfi) ∧
    (withAccess true 0x00#8 1#32 atSfi).turns = Turn.host (hostWord true 0x00#8 1#32) :: [] := by
  unfold legalCodes; decide

/-- A read, a write of an input byte, a START: each steps. -/
theorem witness_HostAccessSideEffects :
    (hostW (hostWord false 0x04#8 0#32) = false ∧
      (nextOf (step (withAccess false 0x04#8 0#32 afterS1))).isSome = true) ∧
    (hostW (hostWord true 0x20#8 1#32) = true ∧
      ¬ (isStart (hostWord true 0x20#8 1#32) ∧ afterS1.state = Fsm.idle) ∧
      (nextOf (step (withAccess true 0x20#8 1#32 afterS1))).isSome = true) ∧
    (isStart (hostWord true 0x00#8 1#32) ∧ afterS1.state = Fsm.idle ∧
      (nextOf (step (withAccess true 0x00#8 1#32 afterS1))).isSome = true) := by
  unfold isStart; decide

theorem witness_WritesWhileBusyAreLost :
    legalCodes (withAccess true 0x24#8 0xF0#32 atSfi) ∧
    (withAccess true 0x24#8 0xF0#32 atSfi).state ≠ Fsm.idle ∧
    hostW (hostWord true 0x24#8 0xF0#32) = true := by
  unfold legalCodes; decide

/-- A result on show, and a host read that steps. -/
theorem witness_ResultStaysUntilStart :
    (withAccess false 0x10#8 0#32 afterS1).state = Fsm.idle ∧
    noResetTurn (withAccess false 0x10#8 0#32 afterS1) ∧
    (∀ w ts, (withAccess false 0x10#8 0#32 afterS1).turns = Turn.host w :: ts → ¬ isStart w) ∧
    (nextOf (step (withAccess false 0x10#8 0#32 afterS1))).isSome = true := by
  refine ⟨rfl, noReset_of _ (by decide), fun w ts h => ?_, by decide⟩
  cases h
  unfold isStart
  decide

/-- Both cases: a host turn, a decoder turn. -/
theorem witness_StepRunsDecoded :
    (legalCodes (withAccess true 0x18#8 2#32 State.reset) ∧
      decode 8 (.hostacc (hostWord true 0x18#8 2#32)) = .ok (.wrIlen 2#32)) ∧
    (legalCodes scheduled ∧ legalCodes (during Fsm.sCc 33#6) ∧ decoderTurn (during Fsm.sCc 33#6) ∧
      decode 8 (.fsmstate (during Fsm.sCc 33#6).state) = .ok .sCc) :=
  ⟨by unfold legalCodes; decide, by unfold legalCodes; decide, by unfold legalCodes; decide,
    .inl rfl, by decide⟩

theorem witness_PlacedHostWordRuns : legalCodes State.reset := by unfold legalCodes; decide

theorem witness_PlacedFieldRuns :
    memoryOk afterS1 ∧ 5 ≤ afterS1.ibufBytes ∧ afterS1.kind.toNat ≤ 5 := by
  unfold memoryOk; decide

theorem witness_DecoderNeverWritesInput :
    decoderTurn (during Fsm.sCc 33#6) ∧ (nextOf (step (during Fsm.sCc 33#6))).isSome = true ∧
    (nextOf (exec (.readbits 5#6) (during Fsm.sAot 0#6))).isSome = true :=
  ⟨.inl rfl, by decide, by decide⟩

/-- A START, a completing step and another step, and a reset. -/
theorem witness_FlagWrites :
    (noResetTurn (withAccess true 0x00#8 1#32 afterS1) ∧ isStart (hostWord true 0x00#8 1#32) ∧
      (withAccess true 0x00#8 1#32 afterS1).state = Fsm.idle ∧
      (nextOf (step (withAccess true 0x00#8 1#32 afterS1))).isSome = true) ∧
    (noResetTurn (during Fsm.sCc 33#6) ∧ (nextOf (step (during Fsm.sCc 33#6))).isSome = true) ∧
    (noResetTurn (during Fsm.sAot 0#6) ∧ (nextOf (step (during Fsm.sAot 0#6))).isSome = true) ∧
    (nextOf (step { during Fsm.sRate 9#6 with turns := [.rst] })).isSome = true :=
  ⟨⟨noReset_of _ (by decide), by unfold isStart; decide, rfl, by decide⟩,
    ⟨noReset_of _ (by decide), by decide⟩, ⟨noReset_of _ (by decide), by decide⟩, by decide⟩

theorem witness_ResetInput :
    legalCodes { during Fsm.sRate 9#6 with turns := [.rst, .decoder] } ∧
    ({ during Fsm.sRate 9#6 with turns := [.rst, .decoder] } : State).turns =
      Turn.rst :: [.decoder] := by
  unfold legalCodes; decide

theorem witness_StepKeepsInvariant :
    BlockInv (during Fsm.sCc 33#6) ∧ (nextOf (step (during Fsm.sCc 33#6))).isSome = true :=
  ⟨inv_during_sCc, by decide⟩

theorem witness_InvariantStateSteps : BlockInv (during Fsm.sAot 0#6) := inv_during_sAot

/-- Two ways to write the same bytes. -/
theorem witness_CanonicalMemoriesEqual :
    Memory.wf (Memory.write (Memory.write [] 1 2#8) 0 1#8) = true ∧
    Memory.wf (Memory.write (Memory.write [] 0 1#8) 1 2#8) = true ∧
    ∀ i, Memory.read (Memory.write (Memory.write [] 1 2#8) 0 1#8) i =
      Memory.read (Memory.write (Memory.write [] 0 1#8) 1 2#8) i :=
  ⟨by decide, by decide, fun _ => rfl⟩

theorem witness_RecordRanges :
    decodeAsc [0x11#8, 0x90#8] = .ok ⟨.aacLc, 48000#24, 2#4⟩ ∧
    decodeAsc explicitInput = .ok ⟨.aacLc, 48000#24, 2#4⟩ := by decide

/-- One input of each error kind. -/
theorem witness_ErrorPayloadRanges :
    [[], [0xFF#8, 0xE0#8], [0x16#8, 0x90#8], [0x11#8, 0xF8#8], [0x11#8, 0x80#8]].map decodeAsc =
      [.err .endOfInput 0#7, .err .unsupportedType 95#7, .err .invalidSfi 13#7, .err .invalidCc 15#7,
        .err .ccNotSupported 0#7] := by decide

theorem witness_TablePath : (12 : Nat) ≤ 12 ∧ 1 ≤ (7 : Nat) ∧ (7 : Nat) ≤ 7 := by decide

theorem witness_ExplicitPath :
    (16777215 : Nat) < 2 ^ 24 ∧ 1 ≤ (1 : Nat) ∧ (1 : Nat) ≤ 7 := by decide

/-- Both lengths: one byte short of a table path, one byte short of an explicit path. -/
theorem witness_Truncation :
    (decodeAsc [0x11#8, 0x90#8] = .ok ⟨.aacLc, 48000#24, 2#4⟩ ∧
      1 < (if readField [0x11#8, 0x90#8] 5 4 = some 15 then 5 else 2)) ∧
    (decodeAsc explicitInput = .ok ⟨.aacLc, 48000#24, 2#4⟩ ∧
      4 < (if readField explicitInput 5 4 = some 15 then 5 else 2)) := by decide

/-- The hypotheses of `TrailingBitsIgnored` at two inputs. -/
def trailingPair (B B' : List Byte) : Prop :=
  endsAtChannels (decodeAsc B) ∧
  (if readField B 5 4 = some 15 then 37 else 13) ≤ 8 * B'.length ∧
  ∀ k, k < (if readField B 5 4 = some 15 then 37 else 13) →
    streamBit (fun i => B.getD i 0#8) k = streamBit (fun i => B'.getD i 0#8) k

/-- The same, with the number of bits read worked out. -/
theorem trailingPair_of (B B' : List Byte) (m : Nat)
    (hm : (if readField B 5 4 = some 15 then 37 else 13) = m) (hr : endsAtChannels (decodeAsc B))
    (hl : m ≤ 8 * B'.length)
    (hb : ∀ k, k < m → streamBit (fun i => B.getD i 0#8) k = streamBit (fun i => B'.getD i 0#8) k) :
    trailingPair B B' := by
  unfold trailingPair
  rw [hm]
  exact ⟨hr, hl, hb⟩

/-- Other trailing bits and more bytes: a record, each error of the channel configuration, and the
explicit path. -/
theorem witness_TrailingBitsIgnored :
    trailingPair [0x11#8, 0x90#8] [0x11#8, 0x97#8, 0xFF#8] ∧
    trailingPair [0x11#8, 0xF8#8] [0x11#8, 0xFF#8] ∧
    trailingPair [0x11#8, 0x80#8, 0x00#8] [0x11#8, 0x87#8] ∧
    trailingPair explicitInput [0x17#8, 0x80#8, 0x5D#8, 0xC0#8, 0x17#8] :=
  ⟨trailingPair_of _ _ 13 (by decide) (.inl ⟨⟨.aacLc, 48000#24, 2#4⟩, by decide⟩) (by decide)
      (by decide),
    trailingPair_of _ _ 13 (by decide) (.inr (.inl ⟨15#7, by decide⟩)) (by decide) (by decide),
    trailingPair_of _ _ 13 (by decide) (.inr (.inr ⟨0#7, by decide⟩)) (by decide) (by decide),
    trailingPair_of _ _ 37 (by decide) (.inl ⟨⟨.aacLc, 48000#24, 2#4⟩, by decide⟩) (by decide)
      (by decide)⟩

theorem witness_StepRefinesDecode :
    BlockInv (during Fsm.sAot 0#6) ∧ noResetTurn (during Fsm.sAot 0#6) ∧
    holdsInput (during Fsm.sAot 0#6) explicitInput ∧
    ascFrom explicitInput Fsm.sAot 0 0#24 = some (.ok ⟨.aacLc, 48000#24, 2#4⟩) ∧
    (nextOf (step (during Fsm.sAot 0#6))).isSome = true :=
  ⟨inv_during_sAot, noReset_of _ (by decide), by unfold holdsInput; decide, by decide, by decide⟩

theorem witness_DecodeCompletes :
    BlockInv scheduled ∧ scheduled.state = Fsm.sAot ∧ holdsInput scheduled explicitInput ∧
    (∀ t ∈ scheduled.turns, t ≠ Turn.rst) ∧ 4 ≤ scheduled.turns.count Turn.decoder :=
  ⟨inv_scheduled, rfl, by unfold holdsInput; decide, by decide, by decide⟩

/-- A block that steps, beside another; one that is refused. -/
theorem witness_InstancesShareNothing :
    (∀ q ∈ ([⟨0x1000, State.reset⟩] : System), q.base ≠ 0x1100) ∧
    (nextOf (step (during Fsm.sCc 33#6))).isSome = true ∧
    refusalOf (step (block 6#3 0#6 0#8 [])) = some (.unreachableState 6#3) ∧
    step { block Fsm.sCc 37#6 6#8 [] with ibufBytes := 5 } = .fault (.noInputByte 5) :=
  ⟨by decide, by decide, by decide, rfl⟩

/-- The last offset of one window beside the next window. -/
theorem witness_BusAccessReachesItsWindow :
    ∀ q ∈ ([⟨0x1100, State.reset⟩] : System),
      0x1000 + (0xFF#8).toNat < q.base ∨ q.base + 256 ≤ 0x1000 + (0xFF#8).toNat := by decide

end Sys2Proof.Tests
end

/-! PROOF. The bit order of the input (00_scope.md R10): a stream bit as a number. -/

namespace Sys2Proof.Laws

open Sys2Proof.Machine

/-- A stream bit is a binary digit of its byte's number. -/
theorem streamBit_eq_testBit (byteAt : Nat → Byte) (k : Nat) :
    streamBit byteAt k = (byteAt (k / 8)).toNat.testBit (7 - k % 8) := by
  rw [streamBit, BitVec.testBit_toNat]

/-- Settles O6: the bit is a binary digit of its byte's number, and the digit at `i` is the number
divided by `2 ^ i`, modulo 2, which is what the shift computes. -/
theorem streamBitIsMsbFirst : Obligations.StreamBitIsMsbFirst := by
  intro byteAt k
  rw [streamBit_eq_testBit, Nat.toNat_testBit, Nat.shiftRight_eq_div_pow]

end Sys2Proof.Laws

/-! PROOF. One step by the agent whose turn it is (00_scope.md R14): the state codes a step asks
for, and the instruction each turn runs. -/

namespace Sys2Proof.Laws

open Sys2Proof.Machine Sys2Proof.Safety

/-- A state is refused exactly when it holds a code that no rule writes. -/
theorem stateRefusal_eq_none_iff (s : State) : stateRefusal s = none ↔ legalCodes s := by
  unfold stateRefusal legalCodes
  split_ifs <;> simp <;> omega

/-- A state that steps holds legal codes. -/
theorem legalCodes_of_step_next {s t : State} (h : step s = .next t) : legalCodes s := by
  rw [← stateRefusal_eq_none_iff]
  unfold step at h
  split at h
  · cases h
  · assumption

/-- The next turn is the reset input's, the host's or the decoder agent's. -/
theorem turn_cases (s : State) :
    (∃ ts, s.turns = .rst :: ts) ∨ (∃ w ts, s.turns = .host w :: ts) ∨ decoderTurn s := by
  unfold decoderTurn
  rcases s.turns with _ | ⟨_ | w | _, ts⟩ <;> simp

/-- A reset turn resets the block. -/
theorem step_of_rst {s : State} {ts : List Turn} (hc : legalCodes s) (ht : s.turns = .rst :: ts) :
    step s = .next (resetBlock s.popTurn) := by
  simp [step, (stateRefusal_eq_none_iff s).2 hc, fetch, ht]

/-- A host turn runs the row of its transaction word. -/
theorem step_of_host {s : State} {w : HostAcc} {ts : List Turn} (hc : legalCodes s)
    (ht : s.turns = .host w :: ts) : step s = exec (decodeHost s.ibufBytes w) s.popTurn := by
  simp [step, (stateRefusal_eq_none_iff s).2 hc, fetch, ht, decode]

/-- A decoder turn runs the word in `STATE`. -/
theorem fetch_of_decoderTurn {s : State} (ht : decoderTurn s) :
    fetch s = .code (.fsmstate s.state) := by
  rcases ht with ht | ⟨ts, ht⟩ <;> simp [fetch, ht]

/-- A decoder turn runs the row of the code in `STATE`. -/
theorem step_of_decoderTurn {s : State} {i : Instr} (hc : legalCodes s) (ht : decoderTurn s)
    (hi : decodeFsm s.state = .ok i) : step s = exec i s.popTurn := by
  simp [step, (stateRefusal_eq_none_iff s).2 hc, fetch_of_decoderTurn ht, decode, hi]

/-- The row of each legal code of `STATE` (10_state.md R23). -/
theorem decodeFsm_cases {st : BitVec 3} (h : st.toNat ≤ 5) :
    (st = Fsm.idle ∧ decodeFsm st = .ok .idle) ∨
    (st = Fsm.sAot ∧ decodeFsm st = .ok .sAot) ∨
    (st = Fsm.sAotExt ∧ decodeFsm st = .ok .sAotExt) ∨
    (st = Fsm.sSfi ∧ decodeFsm st = .ok .sSfi) ∨
    (st = Fsm.sRate ∧ decodeFsm st = .ok .sRate) ∨
    (st = Fsm.sCc ∧ decodeFsm st = .ok .sCc) := by
  revert st
  decide

end Sys2Proof.Laws

/-! PROOF. What a host register access can do (42_host_interface.md): a START from `IDLE` begins a
decode; every other access writes the input registers and the host's answer at most. -/

namespace Sys2Proof.Laws

open Sys2Proof.Machine Sys2Proof.Safety

/-- From `s` to `t` nothing changed but the input registers and the value the host has read. -/
def HostFrame (s t : State) : Prop :=
  t = { s with ilen := t.ilen, ibuf := t.ibuf, hostRead := t.hostRead }

theorem HostFrame.state_eq {s t : State} (h : HostFrame s t) : t.state = s.state := by rw [h]

theorem HostFrame.done_eq {s t : State} (h : HostFrame s t) : t.done = s.done := by rw [h]

/-- An input register write is ignored while busy and takes effect in `IDLE`. -/
theorem whenIdle_next {s t : State} {o : Out} (h : whenIdle s o = .next t) :
    (s.state ≠ Fsm.idle ∧ t = s) ∨ (s.state = Fsm.idle ∧ o = .next t) := by
  unfold whenIdle busy at h
  by_cases hs : s.state = Fsm.idle
  · exact .inr ⟨hs, by simpa [hs] using h⟩
  · exact .inl ⟨hs, by simpa [hs, eq_comm] using h⟩

theorem execWrIlen_frame {data : Word} {s t : State} (h : execWrIlen data s = .next t) :
    HostFrame s t := by
  rcases whenIdle_next h with ⟨-, rfl⟩ | ⟨-, h⟩
  · rfl
  · cases h
    rfl

theorem execWrIbuf_frame {i : BitVec 6} {data : Word} {s t : State}
    (h : execWrIbuf i data s = .next t) : HostFrame s t := by
  rcases whenIdle_next h with ⟨-, rfl⟩ | ⟨-, h⟩
  · rfl
  · split at h <;> cases h
    rfl

theorem execRdIbuf_next {i : BitVec 6} {s t : State} (h : execRdIbuf i s = .next t) :
    t = s.answerHost ((s.ibuf.read i.toNat).setWidth 32) := by
  unfold execRdIbuf at h
  split at h <;> cases h
  rfl

/-- Every read row only answers the host (20_memory.md R69). -/
theorem exec_decodeRead_next {ib : Nat} {off : BitVec 8} {data : Word} {s t : State}
    (h : exec (decodeRead ib off data) s = .next t) : ∃ v, t = s.answerHost v := by
  unfold decodeRead at h
  split_ifs at h
  iterate 7 exact ⟨_, (Host.Outcome.next.inj h).symm⟩
  split at h
  · exact ⟨_, execRdIbuf_next h⟩
  · exact ⟨_, (Host.Outcome.next.inj h).symm⟩

/-- Every write row but START stays in the frame (42_host_interface.md R202 to R204, R214). -/
theorem exec_decodeWrite_frame {ib : Nat} {off : BitVec 8} {data : Word} {s t : State}
    (hstart : ¬ (off = 0x00#8 ∧ data.getLsbD 0 = true))
    (h : exec (decodeWrite ib off data) s = .next t) : HostFrame s t := by
  unfold decodeWrite at h
  split_ifs at h with hoff hbit hilen
  · exact absurd ⟨hoff, hbit⟩ hstart
  · cases h
    rfl
  · exact execWrIlen_frame h
  · split at h
    · exact execWrIbuf_frame h
    · cases h
      rfl

/-- A START word selects the row `START` (30_encoding.md R105). -/
theorem decodeHost_of_isStart {w : HostAcc} (hw : isStart w) (ib : Nat) :
    decodeHost ib w = .start (hostData w) := by
  obtain ⟨hwr, hoff, hbit⟩ := hw
  simp only [decodeHost, decodeWrite, hwr, hoff, hbit, if_true]

/-- A START from `IDLE` begins a decode (42_host_interface.md R201). -/
theorem exec_start_of_idle {w : HostAcc} (hw : isStart w) (ib : Nat) {s : State}
    (hs : s.state = Fsm.idle) : exec (decodeHost ib w) s = .next (startDecode s) := by
  rw [decodeHost_of_isStart hw]
  change whenIdle s _ = _
  simp [whenIdle, busy, hs]

theorem startDecode_busy (s : State) : (startDecode s).state ≠ Fsm.idle := by
  rw [startDecode_state]
  decide

/-- Everything a host access can do. -/
theorem exec_decodeHost_cases {ib : Nat} {w : HostAcc} {s t : State}
    (h : exec (decodeHost ib w) s = .next t) :
    (isStart w ∧ s.state = Fsm.idle ∧ t = startDecode s) ∨ HostFrame s t := by
  by_cases hw : isStart w
  · rw [decodeHost_of_isStart hw] at h
    rcases whenIdle_next h with ⟨-, rfl⟩ | ⟨hs, h⟩
    · exact .inr rfl
    · exact .inl ⟨hw, hs, (Host.Outcome.next.inj h).symm⟩
  · refine .inr ?_
    unfold decodeHost at h
    split_ifs at h with hwr
    · exact exec_decodeWrite_frame (fun hs => hw ⟨hwr, hs⟩) h
    · obtain ⟨v, rfl⟩ := exec_decodeRead_next h
      rfl

end Sys2Proof.Laws

/-! PROOF. The actions of the field values by ranges (30_encoding.md R94 to R99), and what a decoder
step does to the two flags (10_state.md R42). -/

namespace Sys2Proof.Laws

open Sys2Proof.Machine Sys2Proof.Safety

/-- A `freqIdx` value is a table rate, a reserved index or the explicit-rate marker. -/
theorem onFreqIdx_cases (v : BitVec 4) (s : State) :
    (v.toNat ≤ 12 ∧ onFreqIdx v s = acceptRateIndex v.toNat s) ∨
    ((v = 13#4 ∨ v = 14#4) ∧ onFreqIdx v s = .next (finishErr .invalidSfi (v.setWidth 7) s)) ∨
    (v = 15#4 ∧ onFreqIdx v s = .next (s.goto Fsm.sRate)) := by
  obtain ⟨k, hk, rfl⟩ : ∃ k < 16, v = BitVec.ofNat 4 k := ⟨v.toNat, v.isLt, by simp⟩
  rcases (by omega : k ≤ 12 ∨ k = 13 ∨ k = 14 ∨ k = 15) with h | rfl | rfl | rfl
  · refine .inl ⟨by rw [BitVec.toNat_ofNat]; omega, ?_⟩
    interval_cases k <;> rfl
  · exact .inr (.inl ⟨.inl rfl, rfl⟩)
  · exact .inr (.inl ⟨.inr rfl, rfl⟩)
  · exact .inr (.inr ⟨rfl, rfl⟩)

/-- A `chanCfg` value is the configuration in the stream, a standard layout or a reserved one. -/
theorem onChanCfg_cases (v : BitVec 4) (s : State) :
    (v = 0#4 ∧ onChanCfg v s = .next (finishErr .ccNotSupported 0#7 s)) ∨
    (1 ≤ v.toNat ∧ v.toNat ≤ 7 ∧ onChanCfg v s = acceptChannels v s) ∨
    (8 ≤ v.toNat ∧ onChanCfg v s = rejectChannels v s) := by
  obtain ⟨k, hk, rfl⟩ : ∃ k < 16, v = BitVec.ofNat 4 k := ⟨v.toNat, v.isLt, by simp⟩
  have hkv : (BitVec.ofNat 4 k).toNat = k := by rw [BitVec.toNat_ofNat]; omega
  rw [hkv]
  rcases (by omega : k = 0 ∨ (1 ≤ k ∧ k ≤ 7) ∨ 8 ≤ k) with rfl | ⟨h1, h7⟩ | h8
  · exact .inl ⟨rfl, rfl⟩
  · refine .inr (.inl ⟨h1, h7, ?_⟩)
    interval_cases k <;> rfl
  · refine .inr (.inr ⟨h8, ?_⟩)
    interval_cases k <;> rfl

/-- A decoder step from `s` to `t` either completes the decode, or stays busy and leaves `DONE`. -/
def CompletesOrGoesOn (s t : State) : Prop :=
  (t.state = Fsm.idle ∧ t.done = true) ∨ (t.state ≠ Fsm.idle ∧ t.done = s.done)

theorem finishOk_completes (r : Rate) (c : BitVec 4) (s : State) :
    CompletesOrGoesOn s (finishOk r c s) := .inl ⟨rfl, rfl⟩

theorem finishErr_completes (k : ErrKind) (v : BitVec 7) (s : State) :
    CompletesOrGoesOn s (finishErr k v s) := .inl ⟨rfl, rfl⟩

theorem goto_goesOn (s : State) {c : BitVec 3} (hc : c ≠ Fsm.idle) :
    CompletesOrGoesOn s (s.goto c) := .inr ⟨hc, rfl⟩

theorem latchRate_goto_goesOn (s : State) (r : Rate) {c : BitVec 3} (hc : c ≠ Fsm.idle) :
    CompletesOrGoesOn s ((s.latchRate r).goto c) := .inr ⟨hc, rfl⟩

theorem onBaseType_flags (v : BitVec 5) (s t : State) (h : onBaseType v s = .next t) :
    CompletesOrGoesOn s t := by
  unfold onBaseType at h
  split_ifs at h <;> cases h
  · exact goto_goesOn s (by decide)
  · exact goto_goesOn s (by decide)
  · exact finishErr_completes _ _ s

theorem onExt_flags (v : BitVec 6) (s t : State) (h : onExt v s = .next t) :
    CompletesOrGoesOn s t := by
  unfold onExt execAotExt at h
  split_ifs at h <;> cases h
  · exact finishErr_completes _ _ s
  · exact goto_goesOn s (by decide)

theorem onFreqIdx_flags (v : BitVec 4) (s t : State) (h : onFreqIdx v s = .next t) :
    CompletesOrGoesOn s t := by
  rcases onFreqIdx_cases v s with ⟨-, e⟩ | ⟨-, e⟩ | ⟨-, e⟩ <;> rw [e] at h <;> cases h
  · exact latchRate_goto_goesOn s _ (by decide)
  · exact finishErr_completes _ _ s
  · exact goto_goesOn s (by decide)

theorem onRate_flags (v : Rate) (s t : State) (h : onRate v s = .next t) :
    CompletesOrGoesOn s t := by
  cases h
  exact latchRate_goto_goesOn s v (by decide)

theorem onChanCfg_flags (v : BitVec 4) (s t : State) (h : onChanCfg v s = .next t) :
    CompletesOrGoesOn s t := by
  rcases onChanCfg_cases v s with ⟨-, e⟩ | ⟨-, -, e⟩ | ⟨-, e⟩ <;> rw [e] at h <;> cases h
  · exact finishErr_completes _ _ s
  · exact finishOk_completes _ _ s
  · exact finishErr_completes _ _ s

/-- A decoder step's flags are those of its field's action: the read writes `POS` only, and end of
input completes the decode. -/
theorem withField_flags {n : Nat} {k : BitVec n → State → Out} {s t : State}
    (hk : ∀ v s' t', k v s' = .next t' → CompletesOrGoesOn s' t')
    (h : withField n k s = .next t) : CompletesOrGoesOn s t := by
  rcases withField_cases n k s with ⟨-, e⟩ | ⟨-, -, e⟩ | ⟨-, -, e⟩ <;> rw [e] at h
  · cases h
    exact finishErr_completes _ _ s
  · cases h
  · have hread : CompletesOrGoesOn (s.advance n) t := hk _ _ _ h
    exact hread

/-- A decoder turn passes in `IDLE`; while busy it completes the decode or goes on. -/
theorem decoderStep_flags {s t : State} (ht : decoderTurn s) (h : step s = .next t) :
    (s.state = Fsm.idle ∧ t = s.popTurn) ∨ (s.state ≠ Fsm.idle ∧ CompletesOrGoesOn s t) := by
  have hc := legalCodes_of_step_next h
  rcases decodeFsm_cases hc.1 with ⟨hs, hi⟩ | ⟨hs, hi⟩ | ⟨hs, hi⟩ | ⟨hs, hi⟩ | ⟨hs, hi⟩ | ⟨hs, hi⟩ <;>
    rw [step_of_decoderTurn hc ht hi] at h
  · exact .inl ⟨hs, (Host.Outcome.next.inj h).symm⟩
  all_goals refine .inr ⟨by rw [hs]; decide, ?_⟩
  · exact withField_flags (s := s.popTurn) onBaseType_flags h
  · exact withField_flags (s := s.popTurn) onExt_flags h
  · exact withField_flags (s := s.popTurn) onFreqIdx_flags h
  · exact withField_flags (s := s.popTurn) onRate_flags h
  · exact withField_flags (s := s.popTurn) onChanCfg_flags h

/-- Settles O43: each element of the reset state evaluates to 0. -/
theorem resetValues : Obligations.ResetValues :=
  ⟨rfl, rfl, rfl, rfl, rfl, rfl, rfl, rfl, rfl, rfl, rfl, fun _ => rfl⟩

/-- Settles O42, by whose turn it is: a host access is a START from `IDLE` or stays in the host's
frame, a decoder step completes the decode or goes on. -/
theorem flagWrites : Obligations.FlagWrites := by
  refine ⟨fun s t hno h => ?_, fun s t w ts ht hw hs h => ?_, fun s t ts ht h => ?_⟩
  · rcases turn_cases s with ⟨ts, ht⟩ | ⟨w, ts, ht⟩ | ht
    · exact absurd ht (hno ts)
    · rw [step_of_host (legalCodes_of_step_next h) ht] at h
      rcases exec_decodeHost_cases h with ⟨hw, hs, rfl⟩ | hframe
      · exact .inl ⟨hs, ⟨w, ts, ht, hw⟩, startDecode_busy _, rfl⟩
      · exact .inr (.inr ⟨by rw [hframe.state_eq, popTurn_state], hframe.done_eq⟩)
    · rcases decoderStep_flags ht h with ⟨-, rfl⟩ | ⟨hs, ⟨hidle, hdone⟩ | ⟨hbusy, hdone⟩⟩
      · exact .inr (.inr ⟨Iff.rfl, rfl⟩)
      · exact .inr (.inl ⟨hs, ht, hidle, hdone⟩)
      · exact .inr (.inr ⟨iff_of_false hbusy hs, hdone⟩)
  · rw [step_of_host (legalCodes_of_step_next h) ht,
      exec_start_of_idle hw _ (s := s.popTurn) hs] at h
    cases h
    exact ⟨startDecode_busy _, rfl⟩
  · rw [step_of_rst (legalCodes_of_step_next h) ht] at h
    cases h
    exact ⟨rfl, rfl⟩

end Sys2Proof.Laws

/-! PROOF. Reading fields back from the bytes of a field list (30_encoding.md R91, R92, R108). -/

namespace Sys2Proof.Laws

open Sys2Proof.Machine

/-- Bit `j` of a field, counted from its first, is digit `n - 1 - j` of its value. -/
theorem assembleBits_testBit (bit : Nat → Bool) (p : Nat) {n j : Nat} (hj : j < n) :
    (assembleBits bit p n).testBit (n - 1 - j) = bit (p + j) := by
  induction n with
  | zero => omega
  | succ n ih =>
    rcases Nat.lt_or_eq_of_le (Nat.lt_succ_iff.mp hj) with hlt | rfl
    · have hidx : n + 1 - 1 - j = (n - 1 - j) + 1 := by omega
      rw [hidx, Nat.testBit_succ, ← ih hlt, assembleBits]
      have hdiv : (2 * assembleBits bit p n + (bit (p + n)).toNat) / 2 = assembleBits bit p n := by
        have := Bool.toNat_le (bit (p + n))
        omega
      rw [hdiv]
    · cases hb : bit (p + j) <;> simp [assembleBits, hb, Nat.testBit_zero]

/-- A number below `2 ^ n` is the value of the field of its own digits. -/
theorem assembleBits_eq_of_testBit {bit : Nat → Bool} {p n v : Nat} (hv : v < 2 ^ n)
    (h : ∀ j, j < n → bit (p + j) = v.testBit (n - 1 - j)) : assembleBits bit p n = v := by
  refine Nat.eq_of_testBit_eq fun i => ?_
  by_cases hi : i < n
  · have hidx : n - 1 - (n - 1 - i) = i := by omega
    have hdigit := assembleBits_testBit bit p (j := n - 1 - i) (n := n) (by omega)
    rwa [h _ (by omega), hidx] at hdigit
  · have hpow : 2 ^ n ≤ 2 ^ i := Nat.pow_le_pow_right (by decide) (by omega)
    rw [Nat.testBit_lt_two_pow (by have := assembleBits_lt bit p n; omega),
      Nat.testBit_lt_two_pow (by omega)]

theorem packBits_length (bits : List Bool) : (packBits bits).length = (bits.length + 7) / 8 := by
  simp [packBits]

/-- The stream bits of packed bytes are the bits packed, and 0 after them. -/
theorem streamBit_packBits (bits : List Bool) {k : Nat} (hk : k < 8 * (packBits bits).length) :
    streamBit (fun i => (packBits bits).getD i 0#8) k = bits.getD k false := by
  rw [packBits_length] at hk
  have hbyte : (packBits bits).getD (k / 8) 0#8 =
      BitVec.ofNat 8 (assembleBits (fun k => bits.getD k false) (8 * (k / 8)) 8) := by
    have hlt : k / 8 < (bits.length + 7) / 8 := by omega
    simp [packBits, List.getD_eq_getElem?_getD, hlt]
  have hidx : 7 - k % 8 < 8 := by omega
  have hpos : 8 * (k / 8) + k % 8 = k := Nat.div_add_mod k 8
  have hdigit := assembleBits_testBit (fun k => bits.getD k false) (8 * (k / 8))
    (Nat.mod_lt k (by decide : 0 < 8))
  rw [hpos] at hdigit
  rw [streamBit, hbyte, BitVec.getLsbD_ofNat, hdigit]
  simp [hidx]

theorem ascBits_append (fs gs : List (Nat × Nat)) :
    ascBits (fs ++ gs) = ascBits fs ++ ascBits gs := by
  induction fs with
  | nil => rfl
  | cons f fs ih => simp [ascBits, ih]

theorem ascBits_length (fs : List (Nat × Nat)) : (ascBits fs).length = (fs.map Prod.fst).sum := by
  induction fs with
  | nil => rfl
  | cons f fs ih => simp [ascBits, ih]

/-- The bits of the field `(n, v)` that stands after the fields `pre`. -/
theorem ascBits_getD (pre post : List (Nat × Nat)) (v : Nat) {n j : Nat} (hj : j < n) :
    (ascBits (pre ++ (n, v) :: post)).getD ((pre.map Prod.fst).sum + j) false =
      v.testBit (n - 1 - j) := by
  rw [ascBits_append, ascBits, ← ascBits_length pre, List.getD_append_right _ _ _ _ (by omega),
    Nat.add_sub_cancel_left, List.getD_append _ _ _ _ (by simpa using hj)]
  simp [hj]

/-- The field `(n, v)` that stands after the fields `pre` is read back from the packed bytes. -/
theorem readField_packBits (pre post : List (Nat × Nat)) {n v : Nat} (hv : v < 2 ^ n) :
    readField (packBits (ascBits (pre ++ (n, v) :: post))) (pre.map Prod.fst).sum n = some v := by
  have hlen : (pre.map Prod.fst).sum + n ≤
      8 * (packBits (ascBits (pre ++ (n, v) :: post))).length := by
    rw [packBits_length, ascBits_length]
    simp only [List.map_append, List.map_cons, List.sum_append, List.sum_cons]
    omega
  rw [readField, if_neg (by omega), Option.some.injEq]
  refine assembleBits_eq_of_testBit hv fun j hj => ?_
  rw [streamBit_packBits _ (by omega), ascBits_getD pre post v hj]

end Sys2Proof.Laws

/-! PROOF. What a successful decode has read (41_config_decoder.md R168), and so what its record can
hold (10_state.md R26). -/

namespace Sys2Proof.Laws

open Sys2Proof.Machine Sys2Proof.Safety

theorem readField_lt {B : List Byte} {p n v : Nat} (h : readField B p n = some v) : v < 2 ^ n := by
  unfold readField at h
  split_ifs at h
  cases h
  exact assembleBits_lt _ _ _

/-- A record comes from a standard layout; the rate is the one handed on. -/
theorem ascFromChannels_ok_iff {B : List Byte} {p : Nat} {rate : Rate} {r : AscRecord} :
    ascFromChannels B p rate = .ok r ↔
      ∃ c, readField B p 4 = some c ∧ 1 ≤ c ∧ c ≤ 7 ∧
        r = ⟨.aacLc, rate, BitVec.ofNat 4 (if c = 7 then 8 else c)⟩ := by
  unfold ascFromChannels
  rcases readField B p 4 with _ | c
  · simp [ascEndOfInput]
  · simp only [Option.some.injEq, exists_eq_left']
    rcases (by omega : c = 0 ∨ 8 ≤ c ∨ (1 ≤ c ∧ c ≤ 7)) with rfl | h8 | ⟨h1, h7⟩
    · simp
    · rw [if_neg (by omega), if_pos h8]
      simp only [reduceCtorEq, false_iff]
      omega
    · rw [if_neg (by omega), if_neg (by omega), AscResult.ok.injEq, eq_comm]
      simp only [h1, h7, true_and]

/-- A record on the explicit path has read 24 bits for its rate. -/
theorem ascFromRate_ok_iff {B : List Byte} {p : Nat} {r : AscRecord} :
    ascFromRate B p = .ok r ↔
      ∃ v, readField B p 24 = some v ∧ ascFromChannels B (p + 24) (BitVec.ofNat 24 v) = .ok r := by
  unfold ascFromRate
  rcases readField B p 24 with _ | v <;> simp [ascEndOfInput]

/-- A record has read a table index or the explicit-rate marker. -/
theorem ascFromIndex_ok_iff {B : List Byte} {p : Nat} {r : AscRecord} :
    ascFromIndex B p = .ok r ↔
      (readField B p 4 = some 15 ∧ ascFromRate B (p + 4) = .ok r) ∨
      ∃ k, k ≤ 12 ∧ readField B p 4 = some k ∧ ascFromChannels B (p + 4) (sfiRate k) = .ok r := by
  unfold ascFromIndex
  cases hread : readField B p 4 with
  | none => simp [ascEndOfInput]
  | some f =>
    have hf : f < 2 ^ 4 := readField_lt hread
    rcases (by omega : f ≤ 12 ∨ (f = 13 ∨ f = 14) ∨ f = 15) with hk | hrsv | rfl
    · have h15 : f ≠ 15 := by omega
      have hrsv : ¬ (f = 13 ∨ f = 14) := by omega
      simp [h15, hrsv, hk]
    · have h15 : f ≠ 15 := by omega
      have hk : ¬ f ≤ 12 := by omega
      simp [h15, hrsv, hk]
    · simp

/-- The extended path ends in an error: its type is at least 32. -/
theorem ascFromExt_ne_ok (B : List Byte) (p : Nat) (r : AscRecord) : ascFromExt B p ≠ .ok r := by
  unfold ascFromExt
  rcases readField B p 6 with _ | ext
  · simp [ascEndOfInput]
  · have htype : 32 + ext ≠ 2 := by omega
    simp [ascCheckType, htype]

/-- A record has read type 2 directly. -/
theorem decodeAsc_ok_iff {B : List Byte} {r : AscRecord} :
    decodeAsc B = .ok r ↔ readField B 0 5 = some 2 ∧ ascFromIndex B 5 = .ok r := by
  unfold decodeAsc ascFromType
  rcases readField B 0 5 with _ | a
  · simp [ascEndOfInput]
  · by_cases h31 : a = 31
    · subst h31
      simp [ascFromExt_ne_ok]
    · by_cases h2 : a = 2 <;> simp [h31, h2, ascCheckType]

/-- The channel count of a standard layout. -/
theorem channelCountOk_of_standard {c : Nat} (h1 : 1 ≤ c) (h7 : c ≤ 7) :
    channelCountOk (BitVec.ofNat 4 (if c = 7 then 8 else c)) := by
  unfold channelCountOk
  interval_cases c <;> decide

/-- The explicit path with one channel decodes to its rate. -/
theorem decodeAsc_explicitPath_rate (rate : Rate) :
    decodeAsc (ascExplicitPath 2 rate.toNat 1) = .ok ⟨.aacLc, rate, 1#4⟩ := by
  refine decodeAsc_ok_iff.2 ⟨?_, ascFromIndex_ok_iff.2 (.inl ⟨?_, ascFromRate_ok_iff.2
    ⟨rate.toNat, ?_, ascFromChannels_ok_iff.2 ⟨1, ?_, by decide, by decide, by simp⟩⟩⟩)⟩
  · exact readField_packBits [] [(4, 15), (24, rate.toNat), (4, 1)] (by decide)
  · exact readField_packBits [(5, 2)] [(24, rate.toNat), (4, 1)] (by decide)
  · exact readField_packBits [(5, 2), (4, 15)] [(4, 1)] rate.isLt
  · exact readField_packBits [(5, 2), (4, 15), (24, rate.toNat)] [] (by decide)

/-- Settles O50: a record's fields are the ones the successful decode has read; the other way, the
explicit path carries every 24-bit rate. -/
theorem recordRanges : Obligations.RecordRanges := by
  refine ⟨fun B r h => ?_, fun rate => ⟨_, _, decodeAsc_explicitPath_rate rate, rfl⟩⟩
  obtain ⟨-, hindex⟩ := decodeAsc_ok_iff.1 h
  rcases ascFromIndex_ok_iff.1 hindex with ⟨hmark, hrate⟩ | ⟨k, hk, hread, hch⟩
  · obtain ⟨v, hv, hch⟩ := ascFromRate_ok_iff.1 hrate
    obtain ⟨c, -, h1, h7, rfl⟩ := ascFromChannels_ok_iff.1 hch
    refine ⟨rfl, .inr ⟨hmark, ?_⟩, channelCountOk_of_standard h1 h7⟩
    rw [hv, BitVec.toNat_ofNat, Nat.mod_eq_of_lt (readField_lt hv)]
  · obtain ⟨c, -, h1, h7, rfl⟩ := ascFromChannels_ok_iff.1 hch
    exact ⟨rfl, .inl ⟨k, hk, hread, rfl⟩, channelCountOk_of_standard h1 h7⟩

end Sys2Proof.Laws

/-! PROOF. Everything a decoder step can do to the block (41_config_decoder.md R160 to R167), and so
that it leaves the input (20_memory.md R64). -/

namespace Sys2Proof.Laws

open Sys2Proof.Machine Sys2Proof.Safety

/-- Everything the action of a field value can do, once the field is read: go on to another field,
latch a rate and go on to the channels, fail, or complete with the latched rate. -/
inductive FieldEffect (s : State) : State → Prop where
  | goOn {c : BitVec 3} (hc : c ≠ Fsm.idle) : FieldEffect s (s.goto c)
  | latch (r : Rate) : FieldEffect s ((s.latchRate r).goto Fsm.sCc)
  | fail (k : ErrKind) (v : BitVec 7) : FieldEffect s (finishErr k v s)
  | complete (ch : BitVec 4) : FieldEffect s (finishOk s.lRate ch s)

theorem onBaseType_effect (v : BitVec 5) (s t : State) (h : onBaseType v s = .next t) :
    FieldEffect s t := by
  unfold onBaseType at h
  split_ifs at h <;> cases h
  · exact .goOn (by decide)
  · exact .goOn (by decide)
  · exact .fail _ _

theorem onExt_effect (v : BitVec 6) (s t : State) (h : onExt v s = .next t) : FieldEffect s t := by
  unfold onExt execAotExt at h
  split_ifs at h <;> cases h
  · exact .fail _ _
  · exact .goOn (by decide)

theorem onFreqIdx_effect (v : BitVec 4) (s t : State) (h : onFreqIdx v s = .next t) :
    FieldEffect s t := by
  rcases onFreqIdx_cases v s with ⟨-, e⟩ | ⟨-, e⟩ | ⟨-, e⟩ <;> rw [e] at h <;> cases h
  · exact .latch _
  · exact .fail _ _
  · exact .goOn (by decide)

theorem onRate_effect (v : Rate) (s t : State) (h : onRate v s = .next t) : FieldEffect s t := by
  cases h
  exact .latch v

theorem onChanCfg_effect (v : BitVec 4) (s t : State) (h : onChanCfg v s = .next t) :
    FieldEffect s t := by
  rcases onChanCfg_cases v s with ⟨-, e⟩ | ⟨-, -, e⟩ | ⟨-, e⟩ <;> rw [e] at h <;> cases h
  · exact .fail _ _
  · exact .complete _
  · exact .fail _ _

/-- A decoder step moves the cursor and then has the effect of its field's action; end of input is a
failure with the cursor where it was. -/
theorem withField_effect {n : Nat} {k : BitVec n → State → Out} {s t : State}
    (hk : ∀ v s' t', k v s' = .next t' → FieldEffect s' t') (h : withField n k s = .next t) :
    ∃ p, FieldEffect { s with pos := p } t := by
  rcases withField_cases n k s with ⟨-, e⟩ | ⟨-, -, e⟩ | ⟨-, -, e⟩ <;> rw [e] at h
  · cases h
    exact ⟨s.pos, .fail .endOfInput 0#7⟩
  · cases h
  · exact ⟨_, hk _ _ _ h⟩

/-- Everything a decoder turn can do: it passes in `IDLE`, and has a field's effect while busy. -/
theorem decoderStep_cases {s t : State} (ht : decoderTurn s) (h : step s = .next t) :
    (s.state = Fsm.idle ∧ t = s.popTurn) ∨
    (s.state ≠ Fsm.idle ∧ ∃ p, FieldEffect { s.popTurn with pos := p } t) := by
  have hc := legalCodes_of_step_next h
  rcases decodeFsm_cases hc.1 with ⟨hs, hi⟩ | ⟨hs, hi⟩ | ⟨hs, hi⟩ | ⟨hs, hi⟩ | ⟨hs, hi⟩ | ⟨hs, hi⟩ <;>
    rw [step_of_decoderTurn hc ht hi] at h
  · exact .inl ⟨hs, (Host.Outcome.next.inj h).symm⟩
  all_goals refine .inr ⟨by rw [hs]; decide, ?_⟩
  · exact withField_effect onBaseType_effect h
  · exact withField_effect onExt_effect h
  · exact withField_effect onFreqIdx_effect h
  · exact withField_effect onRate_effect h
  · exact withField_effect onChanCfg_effect h

/-- No effect of a field writes an input register. -/
theorem FieldEffect.input_eq {s t : State} (h : FieldEffect s t) :
    t.ilen = s.ilen ∧ t.ibuf = s.ibuf := by
  cases h <;> exact ⟨rfl, rfl⟩

/-- `READBITS` on its own moves the cursor and reports to its caller (40_bit_reader.md R140,
R144). -/
theorem execReadbits_next {n : BitVec 6} {s t : State} (h : execReadbits n s = .next t) :
    t = { s with pos := t.pos, bitOut := t.bitOut } := by
  unfold execReadbits at h
  split_ifs at h
  rcases readBits_cases n.toNat s with ⟨-, e⟩ | ⟨-, -, e⟩ | ⟨-, -, e⟩ <;> rw [e] at h <;> cases h
  · rfl
  · rfl

theorem execReadbits_input {n : BitVec 6} {s t : State} (h : execReadbits n s = .next t) :
    t.ilen = s.ilen ∧ t.ibuf = s.ibuf := by
  rw [execReadbits_next h]
  exact ⟨rfl, rfl⟩

/-- Settles O41: an idle turn only passes, and no effect of a field writes the input; a `READBITS`
on its own writes `POS` and its report at most. -/
theorem decoderNeverWritesInput : Obligations.DecoderNeverWritesInput := by
  refine ⟨fun s t ht h => ?_, fun n s t h => execReadbits_input h⟩
  rcases decoderStep_cases ht h with ⟨-, rfl⟩ | ⟨-, p, heffect⟩
  · exact ⟨rfl, rfl⟩
  · exact heffect.input_eq

end Sys2Proof.Laws

/-! PROOF. What a host write changes, by its offset (20_memory.md R69). -/

namespace Sys2Proof.Laws

open Sys2Proof.Machine Sys2Proof.Safety

/-- With the turn just taken gone, the rest of the turns are to come. -/
theorem popTurn_of_turns {s : State} {a : Turn} {ts : List Turn} (ht : s.turns = a :: ts) :
    s.popTurn = { s with turns := ts } := by
  rw [State.popTurn, ht, List.tail_cons]

/-- The byte register an offset names stands at that offset (10_state.md R30). -/
theorem offset_of_ibufIndex {ib : Nat} {off : BitVec 8} {i : BitVec 6}
    (h : ibufIndex ib off = some i) : off.toNat = 0x20 + 4 * i.toNat := by
  unfold ibufIndex at h
  split_ifs at h with hoff
  cases h
  have hlt := off.isLt
  rw [BitVec.toNat_ofNat]
  omega

/-- From `s` to `t` nothing changed but `ILEN`, if `off` is its offset, and the input byte at
`off`. -/
structure WritesAt (off : BitVec 8) (s t : State) : Prop where
  frame : t = { s with ilen := t.ilen, ibuf := t.ibuf }
  ilen_eq : off ≠ 0x18#8 → t.ilen = s.ilen
  byte_eq : ∀ j, off.toNat ≠ 0x20 + 4 * j → t.ibuf.read j = s.ibuf.read j

theorem WritesAt.refl (off : BitVec 8) (s : State) : WritesAt off s s :=
  ⟨rfl, fun _ => rfl, fun _ _ => rfl⟩

theorem setIlen_writesAt (s : State) (v : BitVec 8) : WritesAt 0x18#8 s (s.setIlen v) :=
  ⟨rfl, fun h => absurd rfl h, fun _ _ => rfl⟩

theorem setByte_writesAt {off : BitVec 8} {i : Nat} (hi : off.toNat = 0x20 + 4 * i) (s : State)
    (v : Byte) : WritesAt off s (s.setByte i v) :=
  ⟨rfl, fun _ => rfl, fun j hj => memory_read_write_ne s.ibuf i j v (by rintro rfl; exact hj hi)⟩

/-- An input register write writes where its effect does, if it has one. -/
theorem whenIdle_writesAt {off : BitVec 8} {s t : State} {o : Out}
    (ho : s.state = Fsm.idle → o = .next t → WritesAt off s t) (h : whenIdle s o = .next t) :
    WritesAt off s t := by
  rcases whenIdle_next h with ⟨-, rfl⟩ | ⟨hs, h⟩
  · exact .refl off t
  · exact ho hs h

/-- Every write row writes at its offset, but START from `IDLE` (42_host_interface.md R201 to R204,
R214). -/
theorem exec_decodeWrite_writesAt {ib : Nat} {off : BitVec 8} {data : Word} {s t : State}
    (hstart : ¬ ((off = 0x00#8 ∧ data.getLsbD 0 = true) ∧ s.state = Fsm.idle))
    (h : exec (decodeWrite ib off data) s = .next t) : WritesAt off s t := by
  unfold decodeWrite at h
  split_ifs at h with hoff hbit hilen
  · exact whenIdle_writesAt (fun hs => absurd ⟨⟨hoff, hbit⟩, hs⟩ hstart) h
  · cases h
    exact .refl off _
  · subst hilen
    refine whenIdle_writesAt (fun _ ho => ?_) h
    cases ho
    exact setIlen_writesAt s _
  · split at h
    next i hi =>
      refine whenIdle_writesAt (fun _ ho => ?_) h
      split_ifs at ho
      cases ho
      exact setByte_writesAt (offset_of_ibufIndex hi) s _
    next =>
      cases h
      exact .refl off _

/-- Settles O35, by the access the turn makes: a read row only answers, a write row writes at its
offset, a START from `IDLE` begins a decode. -/
theorem hostAccessSideEffects : Obligations.HostAccessSideEffects := by
  intro w ts s t ht h
  rw [step_of_host (legalCodes_of_step_next h) ht, popTurn_of_turns ht] at h
  refine ⟨fun hr => ?_, fun hw hstart => ?_, fun hw hs => ?_,
    fun n u hu => (execReadbits_input hu).2⟩
  · rw [decodeHost, if_neg (by simp [hr])] at h
    exact exec_decodeRead_next h
  · rw [decodeHost, if_pos hw] at h
    obtain ⟨hframe, hilen, hbyte⟩ :=
      exec_decodeWrite_writesAt (s := { s with turns := ts })
        (fun ⟨hrow, hs⟩ => hstart ⟨⟨hw, hrow⟩, hs⟩) h
    exact ⟨hframe, hilen, hbyte⟩
  · rw [exec_start_of_idle hw _ (s := { s with turns := ts }) hs] at h
    cases h
    rfl

end Sys2Proof.Laws

/-! PROOF. Instances side by side share nothing (20_memory.md R78). -/

namespace Sys2Proof.Laws

open Sys2Proof.Machine

/-- The outcome of one block's step, with the blocks around it as they were. -/
def outcomeAmong (before : System) (base : Nat) (after : System) :
    Out → Host.Outcome System Fault Refusal
  | .next t => .next (before ++ ⟨base, t⟩ :: after)
  | .fault r => .fault r
  | .refused r => .refused r

/-- A step at a base is the step of the first block with that base, among the others. -/
theorem stepAt_eq_outcomeAmong {before : System} {p : Placed} (after : System)
    (hbefore : ∀ q ∈ before, q.base ≠ p.base) :
    System.stepAt p.base (before ++ p :: after) =
      outcomeAmong before p.base after (step p.block) := by
  induction before with
  | nil =>
    rw [List.nil_append, System.stepAt, if_pos rfl]
    cases step p.block <;> rfl
  | cons q before ih =>
    obtain ⟨hq, hrest⟩ := List.forall_mem_cons.1 hbefore
    rw [List.cons_append, System.stepAt, if_neg hq, ih hrest]
    cases step p.block <;> rfl

/-- Settles O59: the system's outcome is the block's own, whichever of the three it is. -/
theorem instancesShareNothing : Obligations.InstancesShareNothing := by
  intro before after p hbefore
  rw [stepAt_eq_outcomeAmong after hbefore]
  refine ⟨fun t h => ?_, fun r h => ?_, fun r h => ?_⟩ <;> rw [h] <;> rfl

end Sys2Proof.Laws

/-! PROOF. The parts of a transaction word (30_encoding.md R104) and the row of the host access map
each offset selects (30_encoding.md R105). -/

namespace Sys2Proof.Laws

@[simp] theorem hostW_hostWord (wr : Bool) (off : BitVec 8) (data : Word) :
    hostW (hostWord wr off data) = wr := by
  simp only [hostW, hostWord, BitVec.getLsbD_append]
  simp

@[simp] theorem hostOff_hostWord (wr : Bool) (off : BitVec 8) (data : Word) :
    hostOff (hostWord wr off data) = off := by
  rw [hostOff, hostWord, BitVec.extractLsb'_append_eq_of_le (by decide)]
  exact BitVec.extractLsb'_append_eq_right

@[simp] theorem hostData_hostWord (wr : Bool) (off : BitVec 8) (data : Word) :
    hostData (hostWord wr off data) = data :=
  BitVec.extractLsb'_append_eq_right

/-- A transaction word is its parts put together. -/
theorem hostWord_parts (w : HostAcc) : hostWord (hostW w) (hostOff w) (hostData w) = w := by
  refine BitVec.eq_of_getLsbD_eq fun k hk => ?_
  simp only [hostWord, hostW, hostOff, hostData, BitVec.getLsbD_append, BitVec.getLsbD_extractLsb',
    BitVec.getLsbD_ofBool]
  split_ifs with hdata hoff
  · simp [hdata]
  · rw [Nat.add_sub_cancel' (by omega)]
    simp [hoff]
  · obtain rfl : k = 40 := by omega
    simp

/-- A write word selects a write row by its offset. -/
theorem decodeHost_write (ib : Nat) (off : BitVec 8) (data : Word) :
    decodeHost ib (hostWord true off data) = decodeWrite ib off data := by
  simp [decodeHost]

/-- A read word selects a read row by its offset. -/
theorem decodeHost_read (ib : Nat) (off : BitVec 8) (data : Word) :
    decodeHost ib (hostWord false off data) = decodeRead ib off data := by
  simp [decodeHost]

/-- An index inside the 256-byte window has its offset there too (10_state.md R39). -/
theorem ibufOffset_toNat {i : BitVec 6} (hi : i.toNat < 56) :
    (ibufOffset i).toNat = 0x20 + 4 * i.toNat := by
  rw [ibufOffset, BitVec.toNat_ofNat]
  omega

/-- The offset of a byte register the block has names that register. -/
theorem ibufIndex_ibufOffset {ib : Nat} {i : BitVec 6} (hib : i.toNat < ib) (hi : i.toNat < 56) :
    ibufIndex ib (ibufOffset i) = some i := by
  have hindex : (0x20 + 4 * i.toNat - 0x20) / 4 = i.toNat := by omega
  rw [ibufIndex, ibufOffset_toNat hi, hindex, if_pos ⟨by omega, by omega, hib⟩, BitVec.ofNat_toNat,
    BitVec.setWidth_eq]

/-- An offset of no byte register the block has names none. -/
theorem ibufIndex_eq_none {ib : Nat} {off : BitVec 8}
    (h : ∀ i : Nat, i < ib → off.toNat ≠ 0x20 + 4 * i) : ibufIndex ib off = none := by
  refine if_neg fun ⟨hlow, halign, hib⟩ => h _ hib ?_
  omega

/-- The registers below 0x20 are not input bytes. -/
theorem ibufOffset_ne {i : BitVec 6} (hi : i.toNat < 56) {off : BitVec 8}
    (hoff : off.toNat < 0x20) : ibufOffset i ≠ off := by
  rintro rfl
  rw [ibufOffset_toNat hi] at hoff
  omega

theorem decodeWrite_ibufOffset {ib : Nat} {i : BitVec 6} (data : Word) (hib : i.toNat < ib)
    (hi : i.toNat < 56) : decodeWrite ib (ibufOffset i) data = .wrIbuf i data := by
  simp [decodeWrite, ibufOffset_ne hi, ibufIndex_ibufOffset hib hi]

theorem decodeRead_ibufOffset {ib : Nat} {i : BitVec 6} (data : Word) (hib : i.toNat < ib)
    (hi : i.toNat < 56) : decodeRead ib (ibufOffset i) data = .rdIbuf i data := by
  simp [decodeRead, ibufOffset_ne hi, ibufIndex_ibufOffset hib hi]

/-- Every offset of no writable register selects `WR_IGNORED`. -/
theorem decodeWrite_of_notMem {ib : Nat} {off : BitVec 8} (data : Word)
    (hoff : off ∉ [0x00#8, 0x18#8]) (hib : ∀ i : Nat, i < ib → off.toNat ≠ 0x20 + 4 * i) :
    decodeWrite ib off data = .wrIgnored off data := by
  simp only [List.mem_cons, List.not_mem_nil, or_false, not_or] at hoff
  simp [decodeWrite, hoff, ibufIndex_eq_none hib]

/-- Every offset of no register selects `RD_RESERVED`. -/
theorem decodeRead_of_notMem {ib : Nat} {off : BitVec 8} (data : Word)
    (hoff : off ∉ [0x00#8, 0x04#8, 0x08#8, 0x0C#8, 0x10#8, 0x14#8, 0x18#8])
    (hib : ∀ i : Nat, i < ib → off.toNat ≠ 0x20 + 4 * i) :
    decodeRead ib off data = .rdReserved off data := by
  simp only [List.mem_cons, List.not_mem_nil, or_false, not_or] at hoff
  simp [decodeRead, hoff, ibufIndex_eq_none hib]

/-- Settles O4: a word's write bit picks the half of the map and its offset the row. The rows at
fixed offsets evaluate; the input bytes and the offsets of no register are the lemmas above. -/
theorem hostAccessMap : Obligations.HostAccessMap := by
  intro ib data
  simp only [decodeHost_write, decodeHost_read]
  refine ⟨fun hbit => ?_, fun hbit => ?_, rfl, fun _ => decodeWrite_ibufOffset data,
    rfl, rfl, rfl, rfl, rfl, rfl, fun _ => decodeRead_ibufOffset data, rfl,
    fun _ => decodeRead_of_notMem data, fun _ => decodeWrite_of_notMem data, hostWord_parts⟩
  · rw [decodeWrite, if_pos rfl, if_pos hbit]
  · rw [decodeWrite, if_pos rfl, hbit, if_neg Bool.false_ne_true]

end Sys2Proof.Laws

/-! PROOF. A field's value as the weighted sum of its bits (30_encoding.md R92). -/

namespace Sys2Proof.Laws

open Sys2Proof.Machine

/-- The accumulator of 40_bit_reader.md R140 computes the weighted sum: each further bit doubles the
weights before it. -/
theorem assembleBits_eq_sum (bit : Nat → Bool) (p n : Nat) :
    assembleBits bit p n = ∑ j ∈ Finset.range n, (bit (p + j)).toNat * 2 ^ (n - 1 - j) := by
  induction n with
  | zero => rfl
  | succ n ih =>
    have hdouble : ∀ j ∈ Finset.range n, 2 * ((bit (p + j)).toNat * 2 ^ (n - 1 - j)) =
        (bit (p + j)).toNat * 2 ^ (n + 1 - 1 - j) := fun j hj => by
      have hexp : n + 1 - 1 - j = n - 1 - j + 1 := by
        have := Finset.mem_range.1 hj
        omega
      rw [hexp, pow_succ]
      ring
    rw [assembleBits, ih, Finset.sum_range_succ, Finset.mul_sum, Finset.sum_congr rfl hdouble]
    simp

/-- Settles O7: the sum is the accumulator's, and a field of `n` bits is below `2 ^ n`, so a holder
of `n` bits or more keeps all of it. -/
theorem fieldIsWeightedSum : Obligations.FieldIsWeightedSum := by
  refine fun byteAt p n => ⟨assembleBits_eq_sum _ p n, fun w hw => ?_⟩
  have hlt : fieldValue byteAt p n < 2 ^ n := assembleBits_lt _ p n
  rw [BitVec.toNat_ofNat, Nat.mod_eq_of_lt (hlt.trans_le (Nat.pow_le_pow_right (by decide) hw))]

end Sys2Proof.Laws

/-! PROOF. Bits after the channel configuration are not read (30_encoding.md R103). -/

namespace Sys2Proof.Laws

open Sys2Proof.Machine Sys2Proof.Safety

/-- The value of a field depends only on the stream bits it is made of. -/
theorem assembleBits_congr {f g : Nat → Bool} {p n : Nat} (h : ∀ k, k < p + n → f k = g k) :
    assembleBits f p n = assembleBits g p n := by
  induction n with
  | zero => rfl
  | succ n ih => rw [assembleBits, assembleBits, ih fun k hk => h k (by omega), h _ (by omega)]

/-- The input `B'` has the first `m` stream bits of `B`. -/
def AgreesUpTo (m : Nat) (B B' : List Byte) : Prop :=
  m ≤ 8 * B'.length ∧
  ∀ k, k < m → streamBit (fun i => B.getD i 0#8) k = streamBit (fun i => B'.getD i 0#8) k

/-- A field read from `B` inside the bits that agree is read from `B'` with the same value. -/
theorem AgreesUpTo.readField_eq {m p n v : Nat} {B B' : List Byte} (h : AgreesUpTo m B B')
    (hm : p + n ≤ m) (hread : readField B p n = some v) : readField B' p n = some v := by
  obtain ⟨hlen, hbits⟩ := h
  unfold readField at hread ⊢
  split_ifs at hread
  rw [if_neg (by omega), ← hread, Option.some.injEq]
  exact (assembleBits_congr fun k hk => hbits k (by omega)).symm

theorem endsAtChannels_err_iff {k : ErrKind} {v : BitVec 7} :
    endsAtChannels (.err k v) ↔ k = .invalidCc ∨ k = .ccNotSupported := by
  simp [endsAtChannels]

/-- A field that is not there ends the decode with neither a record nor an error of the channel
configuration. -/
theorem not_endsAtChannels_endOfInput : ¬ endsAtChannels ascEndOfInput := by
  simp [ascEndOfInput, endsAtChannels_err_iff]

/-- A type other than 2 ends the decode before the channel configuration. -/
theorem not_endsAtChannels_of_type {B : List Byte} {p a : Nat} (ha : a ≠ 2) :
    ¬ endsAtChannels (ascCheckType B p a) := by
  simp [ascCheckType, ha, endsAtChannels_err_iff]

/-- The extended path ends before the channel configuration: its type is at least 32. -/
theorem not_endsAtChannels_ascFromExt (B : List Byte) (p : Nat) :
    ¬ endsAtChannels (ascFromExt B p) := by
  unfold ascFromExt
  split
  · exact not_endsAtChannels_endOfInput
  · exact not_endsAtChannels_of_type (by omega)

/-- With type 2 read, the decode goes on with the index. -/
theorem decodeAsc_of_type {B : List Byte} (h : readField B 0 5 = some 2) :
    decodeAsc B = ascFromIndex B 5 := by
  simp [decodeAsc, ascFromType, h, ascCheckType]

/-- With a table index read, the decode goes on with the channels at its rate. -/
theorem ascFromIndex_of_table {B : List Byte} {p k : Nat} (hk : k ≤ 12)
    (h : readField B p 4 = some k) :
    ascFromIndex B p = ascFromChannels B (p + 4) (sfiRate k) := by
  have h15 : k ≠ 15 := by omega
  have hrsv : ¬ (k = 13 ∨ k = 14) := by omega
  simp [ascFromIndex, h, h15, hrsv]

/-- With the explicit-rate marker read, the decode goes on with the rate. -/
theorem ascFromIndex_of_marker {B : List Byte} {p : Nat} (h : readField B p 4 = some 15) :
    ascFromIndex B p = ascFromRate B (p + 4) := by
  simp [ascFromIndex, h]

/-- With the rate read, the decode goes on with the channels at it. -/
theorem ascFromRate_of_rate {B : List Byte} {p v : Nat} (h : readField B p 24 = some v) :
    ascFromRate B p = ascFromChannels B (p + 24) (BitVec.ofNat 24 v) := by
  simp [ascFromRate, h]

/-- A decode that gets to the channel configuration has read type 2. -/
theorem type_of_endsAtChannels {B : List Byte} (h : endsAtChannels (decodeAsc B)) :
    readField B 0 5 = some 2 := by
  unfold decodeAsc ascFromType at h
  split at h
  · exact absurd h not_endsAtChannels_endOfInput
  next a hread =>
    split_ifs at h with h31
    · exact absurd h (not_endsAtChannels_ascFromExt B _)
    · by_contra hne
      exact not_endsAtChannels_of_type (fun h2 => hne (by rw [hread, h2])) h

/-- It has then read the explicit-rate marker or a table index. -/
theorem index_of_endsAtChannels {B : List Byte} {p : Nat} (h : endsAtChannels (ascFromIndex B p)) :
    readField B p 4 = some 15 ∨ ∃ k, k ≤ 12 ∧ readField B p 4 = some k := by
  unfold ascFromIndex at h
  split at h
  · exact absurd h not_endsAtChannels_endOfInput
  next f hread =>
    split_ifs at h with h15 hrsv
    · exact .inl (by rw [hread, h15])
    · simp [endsAtChannels_err_iff] at h
    · have hlt : f < 2 ^ 4 := readField_lt hread
      exact .inr ⟨f, by omega, hread⟩

/-- On the explicit path it has read the rate. -/
theorem rate_of_endsAtChannels {B : List Byte} {p : Nat} (h : endsAtChannels (ascFromRate B p)) :
    ∃ v, readField B p 24 = some v := by
  unfold ascFromRate at h
  split at h
  · exact absurd h not_endsAtChannels_endOfInput
  next v hread => exact ⟨v, hread⟩

/-- The channel configuration is there, and is the only thing read from here on. -/
theorem AgreesUpTo.ascFromChannels_eq {m p : Nat} {rate : Rate} {B B' : List Byte}
    (hagree : AgreesUpTo m B B') (hm : p + 4 ≤ m)
    (h : endsAtChannels (ascFromChannels B p rate)) :
    ascFromChannels B' p rate = ascFromChannels B p rate := by
  cases hread : readField B p 4 with
  | none =>
    rw [ascFromChannels, hread] at h
    exact absurd h not_endsAtChannels_endOfInput
  | some c => rw [ascFromChannels, ascFromChannels, hread, hagree.readField_eq hm hread]

/-- Settles O56: the fields the decode of `B` has read are read from `B'` too, and each leads to the
next, up to the channel configuration. -/
theorem trailingBitsIgnored : Obligations.TrailingBitsIgnored := by
  intro B B' hends hlen hbits
  have hagree : AgreesUpTo (if readField B 5 4 = some 15 then 37 else 13) B B' := ⟨hlen, hbits⟩
  have htype := type_of_endsAtChannels hends
  have htype' : readField B' 0 5 = some 2 := hagree.readField_eq (by split_ifs <;> decide) htype
  rw [decodeAsc_of_type htype] at hends
  rw [decodeAsc_of_type htype, decodeAsc_of_type htype']
  rcases index_of_endsAtChannels hends with hmark | ⟨k, hk, hindex⟩
  · rw [if_pos hmark] at hagree
    rw [ascFromIndex_of_marker hmark] at hends
    obtain ⟨v, hrate⟩ := rate_of_endsAtChannels hends
    rw [ascFromRate_of_rate hrate] at hends
    rw [ascFromIndex_of_marker hmark, ascFromRate_of_rate hrate,
      ascFromIndex_of_marker (hagree.readField_eq (by decide) hmark),
      ascFromRate_of_rate (hagree.readField_eq (by decide) hrate)]
    exact hagree.ascFromChannels_eq (by decide) hends
  · have hmark : ¬ readField B 5 4 = some 15 := by
      rw [hindex, Option.some.injEq]
      omega
    rw [if_neg hmark] at hagree
    rw [ascFromIndex_of_table hk hindex] at hends
    rw [ascFromIndex_of_table hk hindex,
      ascFromIndex_of_table hk (hagree.readField_eq (by decide) hindex)]
    exact hagree.ascFromChannels_eq (by decide) hends

end Sys2Proof.Laws

/-! PROOF. The row of each field value and its action (30_encoding.md R94 to R99): the row a value
selects runs the action a decoder step runs for the value. -/

namespace Sys2Proof.Laws

open Sys2Proof.Machine

/-- The row a `freqIdx` value selects runs the value's action. -/
theorem exec_of_decodeSfi4 {v : BitVec 4} {i : Instr} (h : decodeSfi4 v = i) (s : State) :
    exec i s = onFreqIdx v s := by
  subst h
  obtain ⟨k, hk, rfl⟩ : ∃ k < 16, v = BitVec.ofNat 4 k := ⟨v.toNat, v.isLt, by simp⟩
  interval_cases k <;> rfl

/-- The row a `chanCfg` value selects runs the value's action. -/
theorem exec_of_decodeCc4 {v : BitVec 4} {i : Instr} (h : decodeCc4 v = i) (s : State) :
    exec i s = onChanCfg v s := by
  subst h
  obtain ⟨k, hk, rfl⟩ : ∃ k < 16, v = BitVec.ofNat 4 k := ⟨v.toNat, v.isLt, by simp⟩
  interval_cases k <;> rfl

/-- The extended type does not wrap in its 7 bits (30_encoding.md R93). -/
theorem extendedType_toNat (e : BitVec 6) : (extendedType e).toNat = 32 + e.toNat := by
  have := e.isLt
  rw [extendedType, BitVec.toNat_add, BitVec.toNat_setWidth]
  simp only [BitVec.toNat_ofNat]
  omega

/-- Settles O21: 2 and 31 go on to their next field, every other value fails with itself as
payload. -/
theorem baseTypeActions : Obligations.BaseTypeActions := by
  refine fun s => ⟨⟨rfl, rfl⟩, ⟨rfl, rfl⟩, ⟨rfl, rfl, extendedType_toNat⟩, fun v h2 h31 => ?_⟩
  rw [BitVec.ofNat_toNat]
  exact ⟨by rw [decodeAot5, if_neg h2, if_neg h31], rfl⟩

/-- The action of a table index. -/
theorem onFreqIdx_of_le {v : BitVec 4} (hv : v.toNat ≤ 12) (s : State) :
    onFreqIdx v s = acceptRateIndex v.toNat s := by
  rcases onFreqIdx_cases v s with ⟨-, e⟩ | ⟨rfl | rfl, -⟩ | ⟨rfl, -⟩
  · exact e
  all_goals exact absurd hv (by decide)

/-- The action of a reserved index. -/
theorem onFreqIdx_of_reserved {v : BitVec 4} (hv : v = 13#4 ∨ v = 14#4) (s : State) :
    onFreqIdx v s = .next (finishErr .invalidSfi (v.setWidth 7) s) := by
  rcases hv with rfl | rfl <;> rfl

/-- The action of a standard layout. -/
theorem onChanCfg_of_standard {v : BitVec 4} (h1 : 1 ≤ v.toNat) (h7 : v.toNat ≤ 7) (s : State) :
    onChanCfg v s = acceptChannels v s := by
  rcases onChanCfg_cases v s with ⟨rfl, -⟩ | ⟨-, -, e⟩ | ⟨h8, -⟩
  · exact absurd h1 (by decide)
  · exact e
  · omega

/-- The action of a reserved layout. -/
theorem onChanCfg_of_reserved {v : BitVec 4} (h8 : 8 ≤ v.toNat) (s : State) :
    onChanCfg v s = rejectChannels v s := by
  rcases onChanCfg_cases v s with ⟨rfl, -⟩ | ⟨-, h7, -⟩ | ⟨-, e⟩
  · exact absurd h8 (by decide)
  · omega
  · exact e

/-- Settles O23: each listed row is the row of its value, so it has that value's action. -/
theorem freqIdxActions : Obligations.FreqIdxActions := by
  refine ⟨fun i k s hmem => ?_, fun i k s hmem => ?_, fun s => ⟨rfl, rfl⟩, fun s => ⟨rfl, rfl⟩⟩
  · obtain ⟨hrow, hk, hk12⟩ := (by decide : ∀ q : Instr × Nat, q ∈ _ →
      decodeSfi4 (BitVec.ofNat 4 q.2) = q.1 ∧ (BitVec.ofNat 4 q.2).toNat = q.2 ∧ q.2 ≤ 12) _ hmem
    refine ⟨hrow, ?_⟩
    rw [exec_of_decodeSfi4 hrow, onFreqIdx_of_le (hk.le.trans hk12), hk]
    rfl
  · obtain ⟨hrow, hrsv, hpayload⟩ := (by decide : ∀ q : Instr × Nat, q ∈ _ →
      decodeSfi4 (BitVec.ofNat 4 q.2) = q.1 ∧
      (BitVec.ofNat 4 q.2 = 13#4 ∨ BitVec.ofNat 4 q.2 = 14#4) ∧
      (BitVec.ofNat 4 q.2).setWidth 7 = BitVec.ofNat 7 q.2) _ hmem
    refine ⟨hrow, ?_⟩
    rw [exec_of_decodeSfi4 hrow, onFreqIdx_of_reserved hrsv, hpayload]
    rfl

/-- Settles O25: the row's action latches the value as it is. -/
theorem explicitRateActions : Obligations.ExplicitRateActions := fun _ _ => ⟨rfl, rfl⟩

/-- Settles O26: each listed row is the row of its value, so it has that value's action. -/
theorem chanCfgActions : Obligations.ChanCfgActions := by
  refine ⟨fun s => ⟨rfl, rfl⟩, fun i k ch s hmem => ?_, fun i k s hmem => ?_⟩
  · obtain ⟨hrow, h1, h7, hcount⟩ := (by decide : ∀ q : Instr × Nat × Nat, q ∈ _ →
      decodeCc4 (BitVec.ofNat 4 q.2.1) = q.1 ∧
      1 ≤ (BitVec.ofNat 4 q.2.1).toNat ∧ (BitVec.ofNat 4 q.2.1).toNat ≤ 7 ∧
      channelCount (BitVec.ofNat 4 q.2.1) = BitVec.ofNat 4 q.2.2) _ hmem
    refine ⟨hrow, ?_⟩
    rw [exec_of_decodeCc4 hrow, onChanCfg_of_standard h1 h7, acceptChannels, hcount]
    rfl
  · obtain ⟨hrow, h8, hpayload⟩ := (by decide : ∀ q : Instr × Nat, q ∈ _ →
      decodeCc4 (BitVec.ofNat 4 q.2) = q.1 ∧ 8 ≤ (BitVec.ofNat 4 q.2).toNat ∧
      (BitVec.ofNat 4 q.2).setWidth 7 = BitVec.ofNat 7 q.2) _ hmem
    refine ⟨hrow, ?_⟩
    rw [exec_of_decodeCc4 hrow, onChanCfg_of_reserved h8, rejectChannels, hpayload]
    rfl

end Sys2Proof.Laws

/-! PROOF. `READBITS` as an instruction of its own: its value, its end of input, and nothing else
written (40_bit_reader.md R140, R141, R144). -/

namespace Sys2Proof.Laws

open Sys2Proof.Machine Sys2Proof.Safety

/-- A request of a defined width whose read gives a value reports it, zero-extended (R140). -/
theorem execReadbits_of_value {n : BitVec 6} {s u : State} {v : Nat} (h1 : 1 ≤ n.toNat)
    (h32 : n.toNat ≤ 32) (hread : readBits n.toNat s = .value v u) :
    execReadbits n s = .next (u.reportBits (.value (BitVec.ofNat 32 v))) := by
  rw [execReadbits, if_pos ⟨h1, h32⟩, hread]

/-- A request of a defined width whose read meets the end of the input reports that (R141). -/
theorem execReadbits_of_endOfInput {n : BitVec 6} {s : State} (h1 : 1 ≤ n.toNat)
    (h32 : n.toNat ≤ 32) (hread : readBits n.toNat s = .endOfInput) :
    execReadbits n s = .next (s.reportBits .endOfInput) := by
  rw [execReadbits, if_pos ⟨h1, h32⟩, hread]

/-- The two next states of a request: the end of the input reported with the cursor where it was,
or the next bits reported with the cursor advanced past them. -/
theorem execReadbits_next_cases {n : BitVec 6} {s t : State} (h : execReadbits n s = .next t) :
    t = s.reportBits .endOfInput ∨
    t = (s.advance n.toNat).reportBits (.value (BitVec.ofNat 32 (nextBits n.toNat s))) := by
  unfold execReadbits at h
  split_ifs at h
  rcases readBits_cases n.toNat s with ⟨-, e⟩ | ⟨-, -, e⟩ | ⟨-, -, e⟩ <;> rw [e] at h <;> cases h
  · exact .inl rfl
  · exact .inr rfl

/-- A request that reports end of input leaves the cursor where it was (R141). -/
theorem execReadbits_pos_of_endOfInput {n : BitVec 6} {s t : State}
    (h : execReadbits n s = .next t) (hreport : t.bitOut = some .endOfInput) : t.pos = s.pos := by
  rcases execReadbits_next_cases h with rfl | rfl
  · exact reportBits_pos s _
  · rw [reportBits_bitOut] at hreport
    cases hreport

/-- Settles O9: the read's own outcome decides what the request reports, and its next states are
those of `execReadbits_next`. -/
theorem readBitsWritesOnlyTheCursor : Obligations.ReadBitsWritesOnlyTheCursor := by
  intro n s h1 h32
  refine ⟨fun hcan => ⟨?_, nextBits_lt n.toNat s⟩, fun hend => ?_, fun t h => ⟨?_, ?_⟩⟩
  · exact execReadbits_of_value h1 h32 (readBits_of_canRead n.toNat s h1 hcan)
  · exact execReadbits_of_endOfInput h1 h32 (readBits_of_endOfInput n.toNat s hend h1)
  · exact execReadbits_next h
  · exact execReadbits_pos_of_endOfInput h

end Sys2Proof.Laws

/-! PROOF. The five steps of the Config Decoder (41_config_decoder.md R160 to R164): each reads one
field, or ends at the end of the input, and takes the action of the field's value. -/

namespace Sys2Proof.Laws

open Sys2Proof.Machine Sys2Proof.Safety

/-- Every field value fits the word a decoder step holds it in. -/
theorem exists_field (n : Nat) (s : State) : ∃ v : BitVec n, nextBits n s = v.toNat :=
  ⟨BitVec.ofNat n (nextBits n s), by
    rw [BitVec.toNat_ofNat, Nat.mod_eq_of_lt (nextBits_lt n s)]⟩

/-- A decoder step whose field is there goes on with the word that has the field's value. -/
theorem withField_of_field {n : Nat} {s : State} {v : BitVec n} (k : BitVec n → State → Out)
    (hn : 1 ≤ n) (hv : nextBits n s = v.toNat) (hcan : canRead n s) :
    withField n k s = k v (afterRead n s) := by
  rw [withField_of_canRead n k s hn hcan, hv, BitVec.ofNat_toNat, BitVec.setWidth_eq]

/-- At a known position, when the next `n` bits are not all in the input. -/
theorem endOfInput_iff_of_pos {s : State} {p : BitVec 6} (hp : s.pos = p) (n : Nat) :
    endOfInput n s ↔ 8 * s.ilen.toNat < p.toNat + n := by
  rw [endOfInput, hp]

/-- The action of a type that is neither 2 nor the escape. -/
theorem onBaseType_of_unsupported {v : BitVec 5} (h2 : v ≠ 2#5) (h31 : v ≠ 31#5) (s : State) :
    onBaseType v s = .next (finishErr .unsupportedType (v.setWidth 7) s) := by
  rw [onBaseType, if_neg h2, if_neg h31, execAotUnsupported, directType]

/-- The action of an extension: its type is at least 32, so never 2. -/
theorem onExt_eq (v : BitVec 6) (s : State) :
    onExt v s = .next (finishErr .unsupportedType (extendedType v) s) := by
  have htype : extendedType v ≠ 2#7 := fun h => by
    have hval := congrArg BitVec.toNat h
    rw [extendedType_toNat, BitVec.toNat_ofNat] at hval
    omega
  rw [onExt, execAotExt, if_pos htype]

/-- A layout from 1 to 6 has as many channels as its number. -/
theorem channelCount_of_le {v : BitVec 4} (h6 : v.toNat ≤ 6) : channelCount v = v :=
  if_neg fun h7 => absurd h6 (by rw [h7]; decide)

/-- Settles O13, by the value of the type: the escape, 2, or any other. -/
theorem aotStep : Obligations.AotStep := by
  intro s
  obtain ⟨v, hv⟩ := exists_field 5 s
  have hgo : canRead 5 s → exec .sAot s = onBaseType v (afterRead 5 s) :=
    withField_of_field onBaseType (by decide) hv
  rw [hv]
  refine ⟨fun hend => ?_, fun hcan h31 => ?_, fun hcan h2 => ?_, fun hcan h31 h2 => ?_,
    fun hpos => ?_⟩
  · exact withField_of_endOfInput 5 onBaseType s hend (by decide)
  · obtain rfl : v = 31#5 := BitVec.eq_of_toNat_eq h31
    exact hgo hcan
  · obtain rfl : v = 2#5 := BitVec.eq_of_toNat_eq h2
    exact hgo hcan
  · have hne2 : v ≠ 2#5 := fun h => h2 (congrArg BitVec.toNat h)
    have hne31 : v ≠ 31#5 := fun h => h31 (congrArg BitVec.toNat h)
    rw [hgo hcan, onBaseType_of_unsupported hne2 hne31, BitVec.ofNat_toNat]
    rfl
  · rw [endOfInput_iff_of_pos hpos]
    bv_omega

/-- Settles O14: one action for every extension, whose payload does not wrap. -/
theorem aotExtStep : Obligations.AotExtStep := by
  intro s
  obtain ⟨v, hv⟩ := exists_field 6 s
  have hpayload : BitVec.ofNat 7 (32 + v.toNat) = extendedType v := by
    rw [← extendedType_toNat, BitVec.ofNat_toNat, BitVec.setWidth_eq]
  rw [hv, hpayload]
  refine ⟨fun hend => ?_, fun hcan => ?_, fun _ => extendedType_toNat v, fun hpos => ?_⟩
  · exact withField_of_endOfInput 6 onExt s hend (by decide)
  · exact (withField_of_field onExt (by decide) hv hcan).trans (onExt_eq v _)
  · rw [endOfInput_iff_of_pos hpos]
    bv_omega

/-- Settles O15, by the value of the index: the explicit-rate marker, reserved, or in the table. -/
theorem sfiStep : Obligations.SfiStep := by
  intro s
  obtain ⟨v, hv⟩ := exists_field 4 s
  have hgo : canRead 4 s → exec .sSfi s = onFreqIdx v (afterRead 4 s) :=
    withField_of_field onFreqIdx (by decide) hv
  rw [hv]
  refine ⟨fun hend => ?_, fun hcan h15 => ?_, fun hcan hrsv => ?_, fun hcan h12 => ?_,
    fun hpos => ?_⟩
  · exact withField_of_endOfInput 4 onFreqIdx s hend (by decide)
  · obtain rfl : v = 15#4 := BitVec.eq_of_toNat_eq h15
    exact hgo hcan
  · have hword : v = 13#4 ∨ v = 14#4 := hrsv.imp BitVec.eq_of_toNat_eq BitVec.eq_of_toNat_eq
    rw [hgo hcan, onFreqIdx_of_reserved hword, BitVec.ofNat_toNat]
    rfl
  · exact (hgo hcan).trans (onFreqIdx_of_le h12 _)
  · rw [endOfInput_iff_of_pos hpos]
    bv_omega

/-- Settles O16: the one action of the field, and the value read fits the latch. -/
theorem rateStep : Obligations.RateStep := by
  intro s
  obtain ⟨v, hv⟩ := exists_field 24 s
  have hlatch : BitVec.ofNat 24 v.toNat = v := by rw [BitVec.ofNat_toNat, BitVec.setWidth_eq]
  rw [hv, hlatch]
  refine ⟨fun hend => ?_, fun hcan => ?_, fun _ => rfl, fun hpos => ?_⟩
  · exact withField_of_endOfInput 24 onRate s hend (by decide)
  · exact withField_of_field onRate (by decide) hv hcan
  · rw [endOfInput_iff_of_pos hpos]
    bv_omega

/-- Settles O17, by the value of the configuration: 0, a standard layout (7 has its own channel
count), or a reserved one. -/
theorem ccStep : Obligations.CcStep := by
  intro s
  obtain ⟨v, hv⟩ := exists_field 4 s
  have hgo : canRead 4 s → exec .sCc s = onChanCfg v (afterRead 4 s) :=
    withField_of_field onChanCfg (by decide) hv
  rw [hv]
  refine ⟨fun hend => ?_, fun hcan h0 => ?_, fun hcan h1 h6 => ?_, fun hcan h7 => ?_,
    fun hcan h8 => ?_⟩
  · exact withField_of_endOfInput 4 onChanCfg s hend (by decide)
  · obtain rfl : v = 0#4 := BitVec.eq_of_toNat_eq h0
    exact hgo hcan
  · rw [hgo hcan, onChanCfg_of_standard h1 (h6.trans (by decide)), acceptChannels,
      channelCount_of_le h6, BitVec.ofNat_toNat, BitVec.setWidth_eq]
    rfl
  · obtain rfl : v = 7#4 := BitVec.eq_of_toNat_eq h7
    exact hgo hcan
  · rw [hgo hcan, onChanCfg_of_reserved h8, rejectChannels, BitVec.ofNat_toNat]
    rfl

end Sys2Proof.Laws

/-! PROOF. What each host register access does (42_host_interface.md R201 to R214): the input register
writes by `BUSY`, the values the reads return, and the offsets of no register. -/

namespace Sys2Proof.Laws

open Sys2Proof.Machine Sys2Proof.Safety

/-- An input register write takes effect in `IDLE`. -/
theorem whenIdle_of_idle {s : State} (hs : s.state = Fsm.idle) (o : Out) : whenIdle s o = o := by
  simp [whenIdle, busy, hs]

/-- An input register write is ignored while busy. -/
theorem whenIdle_of_busy {s : State} (hs : s.state ≠ Fsm.idle) (o : Out) :
    whenIdle s o = .next s := by
  simp [whenIdle, busy, hs]

/-- The low byte of host data is the data modulo 256. -/
theorem dataByte_eq (data : Word) : dataByte data = BitVec.ofNat 8 (data.toNat % 256) := by
  refine BitVec.eq_of_toNat_eq ?_
  rw [dataByte, BitVec.extractLsb'_toNat, Nat.shiftRight_zero, BitVec.toNat_ofNat]
  omega

/-- Settles O29: the write is ignored while busy; in `IDLE` the new memory reads as the low byte at
the index written and as before elsewhere. -/
theorem writeInputByte : Obligations.WriteInputByte := by
  intro i data s ⟨hwf, _⟩ hi
  refine ⟨fun hs => ⟨s.ibuf.write i.toNat (dataByte data), ?_, ?_, fun j hj => ?_⟩,
    fun hs => whenIdle_of_busy hs _⟩
  · exact (whenIdle_of_idle hs _).trans (if_pos hi)
  · rw [memory_read_write_same _ _ _ hwf, dataByte_eq]
  · exact memory_read_write_ne _ _ _ _ hj

/-- Settles O28: the write is ignored while busy and stores the low byte in `IDLE`. -/
theorem writeInputLength : Obligations.WriteInputLength := by
  intro data s
  rw [← dataByte_eq]
  exact ⟨fun hs => whenIdle_of_idle hs _, fun hs => whenIdle_of_busy hs _⟩

/-- Settles O27, by `BUSY`: a START takes effect only in `IDLE`; the other writes of `CTRL` do
nothing in any state. -/
theorem startAndControlWrites : Obligations.StartAndControlWrites :=
  fun _ _ => ⟨fun hs => whenIdle_of_idle hs _, fun hs => whenIdle_of_busy hs _, rfl⟩

/-- A word put in front of `n` bits counts `2 ^ n` times. -/
theorem toNat_append_eq_add {m n : Nat} (x : BitVec m) (y : BitVec n) :
    (x ++ y).toNat = 2 ^ n * x.toNat + y.toNat := by
  rw [BitVec.toNat_append, ← Nat.shiftLeft_add_eq_or_of_lt y.isLt, Nat.shiftLeft_eq, Nat.mul_comm]

/-- The number the fields of `STATUS` make up (10_state.md R33). -/
theorem statusWord_toNat (s : State) :
    (statusWord s).toNat =
      16 * s.kind.toNat + 2 * s.done.toNat + (if s.state = Fsm.idle then 0 else 1) := by
  have hbusy : (busy s).toNat = if s.state = Fsm.idle then 0 else 1 := by
    by_cases hs : s.state = Fsm.idle <;> simp [busy, hs]
  rw [statusWord, BitVec.toNat_setWidth_of_le (by decide)]
  simp only [toNat_append_eq_add, BitVec.toNat_ofBool, BitVec.toNat_ofNat, hbusy]
  omega

/-- With a decode in progress nothing is shown, so `STATUS` is `BUSY` alone. -/
theorem statusWord_of_busy {s : State} (hinv : BlockInv s) (hs : s.state ≠ Fsm.idle) :
    statusWord s = 1#32 := by
  obtain ⟨hdone, ⟨hkind, -⟩, -⟩ := hinv.whileBusy hs
  refine BitVec.eq_of_toNat_eq ?_
  rw [statusWord_toNat, hkind, hdone, if_neg hs]
  rfl

/-- Settles O31: the value is the status word, by the number its fields make up. -/
theorem readStatus : Obligations.ReadStatus :=
  fun _ s => ⟨statusWord s, rfl, statusWord_toNat s, statusWord_of_busy⟩

/-- Settles O33: each offset selects the row of no register, and that row runs with the turn gone. -/
theorem reservedOffsets : Obligations.ReservedOffsets := by
  refine ⟨fun _ _ _ => rfl, fun off data ts s hc hib => ⟨fun hoff ht => ?_, fun hoff ht => ?_⟩⟩
  · rw [step_of_host hc ht, popTurn_of_turns ht, decodeHost_read, decodeRead_of_notMem data hoff hib]
    rfl
  · rw [step_of_host hc ht, popTurn_of_turns ht, decodeHost_write,
      decodeWrite_of_notMem data hoff hib]
    rfl

/-- A payload is shown with an error kind only (10_state.md R28). -/
theorem kind_ne_zero_of_payloadOk {k : BitVec 3} {v : BitVec 7} (h : payloadOk k v) : k ≠ 0#3 := by
  rcases h with ⟨rfl, -⟩ | ⟨rfl, -⟩ | ⟨rfl, -⟩ | ⟨rfl, -⟩ | ⟨rfl, -⟩ <;> decide

/-- The kinds 1 and 5 have no payload (10_state.md R28). -/
theorem eq_zero_of_payloadOk {k : BitVec 3} {v : BitVec 7} (h : payloadOk k v)
    (hk : k = 1#3 ∨ k = 5#3) : v = 0#7 := by
  rcases h with ⟨-, hv⟩ | ⟨rfl, -⟩ | ⟨rfl, -⟩ | ⟨rfl, -⟩ | ⟨-, hv⟩
  · exact hv
  · simp at hk
  · simp at hk
  · simp at hk
  · exact hv

/-- No layout has 7 channels (10_state.md R26). -/
theorem ne_seven_of_channelCountOk {ch : BitVec 4} (h : channelCountOk ch) : ch ≠ 7#4 := by
  rintro rfl
  revert h
  unfold channelCountOk
  decide

/-- What a block shows: nothing before a completion, then one record or one error. -/
theorem shown_cases {s : State} (h : BlockInv s) :
    (s.done = false ∧ resultsClear s) ∨ (s.done = true ∧ showsRecord s) ∨
      (s.done = true ∧ showsError s) := by
  cases hd : s.done with
  | false => exact .inl ⟨rfl, h.beforeDone hd⟩
  | true => exact .inr ((h.whenDone hd).imp (⟨rfl, ·⟩) (⟨rfl, ·⟩))

/-- Settles O32: each read answers with its register, widened; the corner cases of the values follow
from what the block shows, which is nothing, a record or an error. -/
theorem readRegisters : Obligations.ReadRegisters := by
  intro data s
  simp only [BitVec.ofNat_toNat]
  refine ⟨rfl, rfl, rfl, rfl, rfl, fun i hi => if_pos hi, rfl, fun _ => rfl, fun hinv => ?_⟩
  rcases shown_cases hinv with ⟨hdone, -, herrval, haot, hrate, hch⟩ |
    ⟨hdone, hkind, herrval, haot, hch⟩ | ⟨hdone, hpayload, haot, hrate, hch⟩
  case inl =>
    exact ⟨fun _ => herrval, fun hok => absurd hok.1 (by simp [hdone]),
      fun _ => ⟨haot, hrate, hch⟩, by rw [hch]; decide⟩
  case inr.inl =>
    exact ⟨fun _ => herrval, fun _ => haot, fun hnot => absurd ⟨hdone, hkind⟩ hnot,
      ne_seven_of_channelCountOk hch⟩
  case inr.inr =>
    have hkind : s.kind ≠ 0#3 := kind_ne_zero_of_payloadOk hpayload
    exact ⟨fun hk => eq_zero_of_payloadOk hpayload (by simpa [hdone, hkind] using hk),
      fun hok => absurd hok.2 hkind, fun _ => ⟨haot, hrate, hch⟩, by rw [hch]; decide⟩

end Sys2Proof.Laws

/-! PROOF. The reset input (70_reset_and_hazards.md R280): what a reset turn leaves in the block. -/

namespace Sys2Proof.Laws

open Sys2Proof.Machine Sys2Proof.Safety

/-- Settles O44: a reset turn runs the reset whatever the decoder was doing; the elements are those
of the reset state, which are 0, and the rest is what the state held with the turn gone. -/
theorem resetInput : Obligations.ResetInput := by
  intro s ts hc ht
  have hstep : step s = .next (resetBlock { s with turns := ts }) := by
    rw [step_of_rst hc ht, popTurn_of_turns ht]
  obtain ⟨hstate, hpos, hlRate, hdone, -, hkind, herrval, haot, hrate, hch, hilen, hibuf⟩ :=
    resetValues
  exact ⟨_, hstep, hstate, hpos, hlRate, hdone, hkind, herrval, haot, hrate, hch, hilen, hibuf,
    rfl, rfl, rfl⟩

end Sys2Proof.Laws

/-! PROOF. Decoding and encoding are inverse to each other (30_encoding.md sections 2, 5 and 6):
format by format, and for transaction words by the row an offset selects. -/

namespace Sys2Proof.Laws

open Sys2Proof.Machine Sys2Proof.Safety

/-- No byte register the block has stands at an offset that is none's (10_state.md R30). -/
theorem isIbufOffset_eq_false_iff {ib : Nat} {off : BitVec 8} :
    WellFormed.isIbufOffset ib off = false ↔ ∀ i : Nat, i < ib → off.toNat ≠ 0x20 + 4 * i := by
  rw [WellFormed.isIbufOffset, decide_eq_false_iff_not]
  refine ⟨fun h i hi hoff => h (by omega), fun h ⟨hlow, halign, hib⟩ => h _ hib (by omega)⟩

/-- The offsets only `RD_RESERVED` answers (30_encoding.md R105). -/
theorem isReadOffset_eq_false_iff {ib : Nat} {off : BitVec 8} :
    WellFormed.isReadOffset ib off = false ↔
      off ∉ [0x00#8, 0x04#8, 0x08#8, 0x0C#8, 0x10#8, 0x14#8, 0x18#8] ∧
        ∀ i : Nat, i < ib → off.toNat ≠ 0x20 + 4 * i := by
  have hlow : (off.toNat % 4 = 0 ∧ off.toNat ≤ 0x18) ↔
      off ∈ [0x00#8, 0x04#8, 0x08#8, 0x0C#8, 0x10#8, 0x14#8, 0x18#8] := by
    simp only [List.mem_cons, List.not_mem_nil, or_false]
    bv_omega
  rw [WellFormed.isReadOffset, Bool.or_eq_false_iff, decide_eq_false_iff_not, hlow,
    isIbufOffset_eq_false_iff]

/-- The offsets only `WR_IGNORED` answers (30_encoding.md R105). -/
theorem isWriteOffset_eq_false_iff {ib : Nat} {off : BitVec 8} :
    WellFormed.isWriteOffset ib off = false ↔
      off ∉ [0x00#8, 0x18#8] ∧ ∀ i : Nat, i < ib → off.toNat ≠ 0x20 + 4 * i := by
  have hlow : (off.toNat = 0x00 ∨ off.toNat = 0x18) ↔ off ∈ [0x00#8, 0x18#8] := by
    simp only [List.mem_cons, List.not_mem_nil, or_false]
    bv_omega
  rw [WellFormed.isWriteOffset, Bool.or_eq_false_iff, decide_eq_false_iff_not, hlow,
    isIbufOffset_eq_false_iff]

/-- A register index an offset names is one the block has, inside the window, and at that offset. -/
theorem ibufIndex_eq_some {ib : Nat} {off : BitVec 8} {i : BitVec 6}
    (h : ibufIndex ib off = some i) : i.toNat < ib ∧ i.toNat < 56 ∧ ibufOffset i = off := by
  have hoff := offset_of_ibufIndex h
  have hlt := off.isLt
  have hwindow : i.toNat < 56 := by omega
  refine ⟨?_, hwindow, BitVec.eq_of_toNat_eq (by rw [ibufOffset_toNat hwindow, hoff])⟩
  unfold ibufIndex at h
  split_ifs at h with hib
  omega

/-- An offset that names no byte register is none's. -/
theorem ne_offset_of_ibufIndex_eq_none {ib : Nat} {off : BitVec 8} (h : ibufIndex ib off = none)
    (i : Nat) (hi : i < ib) : off.toNat ≠ 0x20 + 4 * i := by
  unfold ibufIndex at h
  split_ifs at h with hoff
  omega

/-- Settles O1, row by row: the rows of fixed words evaluate; a row with a condition on its operands
has the condition its word is decoded by. -/
theorem decodeOfEncode : Obligations.DecodeOfEncode := by
  intro ib i h
  cases i with
  | readbits n => exact if_pos (of_decide_eq_true h)
  | start data =>
    simp only [Instr.wellFormed] at h
    rw [encode, decode, decodeHost_write, decodeWrite, if_pos rfl, if_pos h]
  | wrCtrlNop data =>
    simp only [Instr.wellFormed, Bool.not_eq_true'] at h
    rw [encode, decode, decodeHost_write, decodeWrite, if_pos rfl, h, if_neg Bool.false_ne_true]
  | wrIlen data => rw [encode, decode, decodeHost_write]; rfl
  | wrIbuf i data =>
    obtain ⟨hib, hwindow⟩ := of_decide_eq_true h
    rw [encode, decode, decodeHost_write, decodeWrite_ibufOffset data hib hwindow]
  | wrIgnored off data =>
    simp only [Instr.wellFormed, Bool.not_eq_true', isWriteOffset_eq_false_iff] at h
    rw [encode, decode, decodeHost_write, decodeWrite_of_notMem data h.1 h.2]
  | rdIbuf i data =>
    obtain ⟨hib, hwindow⟩ := of_decide_eq_true h
    rw [encode, decode, decodeHost_read, decodeRead_ibufOffset data hib hwindow]
  | rdReserved off data =>
    simp only [Instr.wellFormed, Bool.not_eq_true', isReadOffset_eq_false_iff] at h
    rw [encode, decode, decodeHost_read, decodeRead_of_notMem data h.1 h.2]
  | rdStatus data | rdErrval data | rdResAot data | rdResRate data | rdResCh data | rdIlen data
  | rdCtrl data => rw [encode, decode, decodeHost_read]; rfl
  | aotUnsupported v =>
    obtain ⟨h2, h31⟩ : v ≠ 2#5 ∧ v ≠ 31#5 := of_decide_eq_true h
    rw [encode, decode, decodeAot5, if_neg h2, if_neg h31]
  | _ => rfl

/-- The row `i` admits its operands and has the word `c`. -/
def IsRowOf (ib : Nat) (c : Code) (i : Instr) : Prop := i.wellFormed ib = true ∧ encode i = c

theorem decodeWrite_isRowOf (ib : Nat) (off : BitVec 8) (data : Word) :
    IsRowOf ib (.hostacc (hostWord true off data)) (decodeWrite ib off data) := by
  unfold decodeWrite
  split_ifs with h0 hbit hilen
  · exact ⟨hbit, by rw [encode, h0]⟩
  · exact ⟨by simpa [Instr.wellFormed] using hbit, by rw [encode, h0]⟩
  · exact ⟨rfl, by rw [encode, hilen]⟩
  · split
    next i hi =>
      obtain ⟨hib, hwindow, hoff⟩ := ibufIndex_eq_some hi
      exact ⟨decide_eq_true ⟨hib, hwindow⟩, by rw [encode, hoff]⟩
    next hnone =>
      refine ⟨?_, rfl⟩
      rw [Instr.wellFormed, isWriteOffset_eq_false_iff.2
        ⟨by simp [h0, hilen], ne_offset_of_ibufIndex_eq_none hnone⟩]
      rfl

theorem decodeRead_isRowOf (ib : Nat) (off : BitVec 8) (data : Word) :
    IsRowOf ib (.hostacc (hostWord false off data)) (decodeRead ib off data) := by
  unfold decodeRead
  split_ifs with h00 h04 h08 h0C h10 h14 h18
  iterate 7 exact ⟨rfl, by simp only [encode, *]⟩
  split
  next i hi =>
    obtain ⟨hib, hwindow, hoff⟩ := ibufIndex_eq_some hi
    exact ⟨decide_eq_true ⟨hib, hwindow⟩, by rw [encode, hoff]⟩
  next hnone =>
    refine ⟨?_, rfl⟩
    rw [Instr.wellFormed, isReadOffset_eq_false_iff.2
      ⟨by simp [*], ne_offset_of_ibufIndex_eq_none hnone⟩]
    rfl

/-- A transaction word selects a row whose word it is, by its write bit. -/
theorem decodeHost_isRowOf (ib : Nat) (w : HostAcc) :
    IsRowOf ib (.hostacc w) (decodeHost ib w) := by
  have hparts := hostWord_parts w
  unfold decodeHost
  split_ifs with hwr
  · rw [hwr] at hparts
    simpa only [hparts] using decodeWrite_isRowOf ib (hostOff w) (hostData w)
  · rw [Bool.eq_false_of_not_eq_true hwr] at hparts
    simpa only [hparts] using decodeRead_isRowOf ib (hostOff w) (hostData w)

/-- A code of `STATE` that no rule writes has no row. -/
theorem decodeFsm_of_ge {st : BitVec 3} (h : 6 ≤ st.toNat) :
    decodeFsm st = .error (.noSuchState st) := by
  revert st
  decide

/-- A code of `STATE` that has a row is that row's. -/
theorem decodeFsm_isRowOf (ib : Nat) {st : BitVec 3} {i : Instr} (h : decodeFsm st = .ok i) :
    IsRowOf ib (.fsmstate st) i := by
  rcases Nat.lt_or_ge st.toNat 6 with hlt | hge
  · rcases decodeFsm_cases (Nat.le_of_lt_succ hlt) with
      ⟨rfl, e⟩ | ⟨rfl, e⟩ | ⟨rfl, e⟩ | ⟨rfl, e⟩ | ⟨rfl, e⟩ | ⟨rfl, e⟩ <;>
    · obtain rfl := Except.ok.inj (e.symm.trans h)
      exact ⟨rfl, rfl⟩
  · rw [decodeFsm_of_ge hge] at h
    cases h

theorem decodeAot5_isRowOf (ib : Nat) (v : BitVec 5) : IsRowOf ib (.aot5 v) (decodeAot5 v) := by
  unfold decodeAot5
  split_ifs with h2 h31
  · exact ⟨rfl, by rw [encode, h2]⟩
  · exact ⟨rfl, by rw [encode, h31]⟩
  · exact ⟨decide_eq_true ⟨h2, h31⟩, rfl⟩

theorem decodeSfi4_isRowOf (ib : Nat) (v : BitVec 4) : IsRowOf ib (.sfi4 v) (decodeSfi4 v) := by
  obtain ⟨k, hk, rfl⟩ : ∃ k < 16, v = BitVec.ofNat 4 k := ⟨v.toNat, v.isLt, by simp⟩
  interval_cases k <;> exact ⟨rfl, rfl⟩

theorem decodeCc4_isRowOf (ib : Nat) (v : BitVec 4) : IsRowOf ib (.cc4 v) (decodeCc4 v) := by
  obtain ⟨k, hk, rfl⟩ : ∃ k < 16, v = BitVec.ofNat 4 k := ⟨v.toNat, v.isLt, by simp⟩
  interval_cases k <;> exact ⟨rfl, rfl⟩

/-- Settles O2, format by format. -/
theorem encodeOfDecode : Obligations.EncodeOfDecode := by
  intro ib c i h
  cases c with
  | rdreq n =>
    rw [decode, decodeRdreq] at h
    split_ifs at h with hwidth
    cases h
    exact ⟨decide_eq_true hwidth, rfl⟩
  | fsmstate st => exact decodeFsm_isRowOf ib h
  | hostacc w => cases h; exact decodeHost_isRowOf ib w
  | aot5 v => cases h; exact decodeAot5_isRowOf ib v
  | aotext v => cases h; exact ⟨rfl, rfl⟩
  | sfi4 v => cases h; exact decodeSfi4_isRowOf ib v
  | sfix v => cases h; exact ⟨rfl, rfl⟩
  | cc4 v => cases h; exact decodeCc4_isRowOf ib v

/-- Settles O3: the formats of transaction words and field values are total; a `STATE` code and a
read width are refused outside their ranges. -/
theorem decodeRefusesOnlyNamedWords : Obligations.DecodeRefusesOnlyNamedWords := by
  intro ib c
  cases c with
  | rdreq n =>
    by_cases hwidth : 1 ≤ n.toNat ∧ n.toNat ≤ Config.readMax
    · exact .inl ⟨_, if_pos hwidth⟩
    · refine .inr (.inr ⟨n, rfl, ?_, if_neg hwidth⟩)
      rw [Config.readMax] at hwidth
      bv_omega
  | fsmstate st =>
    rcases Nat.lt_or_ge st.toNat 6 with hlt | hge
    · rcases decodeFsm_cases (Nat.le_of_lt_succ hlt) with
        ⟨-, e⟩ | ⟨-, e⟩ | ⟨-, e⟩ | ⟨-, e⟩ | ⟨-, e⟩ | ⟨-, e⟩ <;> exact .inl ⟨_, e⟩
    · exact .inr (.inl ⟨st, rfl, hge, decodeFsm_of_ge hge⟩)
  | _ => exact .inl ⟨_, rfl⟩

/-- Settles O5: each sample evaluates to its row. -/
theorem sampleWordsDecode : Obligations.SampleWordsDecode :=
  ⟨rfl, rfl, rfl, rfl, rfl, rfl, rfl, rfl⟩

/-- Settles O30: without the byte register the two accesses fault, but a write while busy is ignored
first; and the index of a row a transaction word selects comes from an offset that names one. -/
theorem noSuchInputByte : Obligations.NoSuchInputByte := by
  refine ⟨fun i data s hi => ⟨fun hs => ?_, fun hs => whenIdle_of_busy hs _, ?_⟩,
    fun ib w i data h => ?_⟩
  · exact (whenIdle_of_idle hs _).trans (if_neg (Nat.not_lt.2 hi))
  · exact if_neg (Nat.not_lt.2 hi)
  · obtain ⟨hwf, -⟩ := decodeHost_isRowOf ib w
    rcases h with h | h <;> rw [h] at hwf <;> exact (of_decide_eq_true hwf).1

/-- Settles O38: with legal codes a step takes the row of the word whose turn it is. -/
theorem stepRunsDecoded : Obligations.StepRunsDecoded := by
  refine fun s i hc => ⟨fun w ts ht hi => ?_, fun ht hi => step_of_decoderTurn hc ht hi⟩
  cases hi
  rw [step_of_host hc ht, popTurn_of_turns ht]

/-- Settles O39: the placed word is the next turn; taking that turn leaves the state as it was. -/
theorem placedHostWordRuns : Obligations.PlacedHostWordRuns := by
  intro w s hc
  have hplaced : s.withFetchWord 48 w.toNat = { s with turns := .host w :: s.turns } := by
    simp [State.withFetchWord, codeOfTableWord, placeCode]
  rw [hplaced]
  exact step_of_host (s := { s with turns := .host w :: s.turns }) hc rfl

end Sys2Proof.Laws

/-! PROOF. The closed form of a field inside the first five bytes (40_bit_reader.md, "Equivalent
closed form"). -/

namespace Sys2Proof.Laws

open Sys2Proof.Machine

/-- The 40-bit big-endian word of the first five bytes. -/
def firstFiveWord (byteAt : Nat → Byte) : BitVec 40 :=
  byteAt 0 ++ byteAt 1 ++ byteAt 2 ++ byteAt 3 ++ byteAt 4

theorem firstFiveWord_toNat (byteAt : Nat → Byte) :
    (firstFiveWord byteAt).toNat =
      (byteAt 0).toNat * 2 ^ 32 + (byteAt 1).toNat * 2 ^ 24 + (byteAt 2).toNat * 2 ^ 16 +
        (byteAt 3).toNat * 2 ^ 8 + (byteAt 4).toNat := by
  simp only [firstFiveWord, toNat_append_eq_add]
  omega

/-- The stream bits of the first five bytes are the digits of their word, the first the most
significant. -/
theorem streamBit_eq_firstFiveWord (byteAt : Nat → Byte) {k : Nat} (hk : k < 40) :
    streamBit byteAt k = (firstFiveWord byteAt).getLsbD (39 - k) := by
  simp only [streamBit, firstFiveWord, BitVec.getLsbD_append]
  interval_cases k <;> rfl

/-- Settles O8: digit by digit, the field's digit is a stream bit, so a digit of the word. -/
theorem fieldClosedForm : Obligations.FieldClosedForm := by
  intro byteAt p n hp
  rw [← firstFiveWord_toNat]
  refine assembleBits_eq_of_testBit (Nat.mod_lt _ (Nat.two_pow_pos n)) fun j hj => ?_
  have hdigit : 40 - p - n + (n - 1 - j) = 39 - (p + j) := by omega
  have hin : n - 1 - j < n := by omega
  rw [streamBit_eq_firstFiveWord byteAt (by omega), Nat.testBit_mod_two_pow, Nat.testBit_shiftRight,
    hdigit, BitVec.testBit_toNat]
  simp [hin]

end Sys2Proof.Laws

/-! PROOF. The Bit Reader where bits, bytes or cursor positions are missing (40_bit_reader.md R140
to R143), and the decoder steps' reads there (41_config_decoder.md section 1). -/

namespace Sys2Proof.Laws

open Sys2Proof.Machine Sys2Proof.Safety

/-- The bits are in the input. -/
theorem not_bitsLeft_lt {n : Nat} {s : State} (hn : 1 ≤ n)
    (hbits : s.pos.toNat + n ≤ 8 * s.ilen.toNat) : ¬ bitsLeft s < n := by
  rw [bitsLeft]
  omega

/-- A read whose bits and bytes are there gives the next bits, wherever its end falls. -/
theorem readBits_of_bytes {n : Nat} {s : State} (hn : 1 ≤ n)
    (hbits : s.pos.toNat + n ≤ 8 * s.ilen.toNat) (hbytes : s.pos.toNat + n ≤ 8 * s.ibufBytes) :
    readBits n s = .value (nextBits n s) (s.advance n) := by
  have hlast : ¬ s.ibufBytes ≤ lastByteOf n s := by
    rw [lastByteOf]
    omega
  rw [readBits, if_neg (not_bitsLeft_lt hn hbits), if_neg hlast, nextBits]

/-- A read whose bits are in the input but not in the block names the last byte it needs. -/
theorem readBits_of_noByte {n : Nat} {s : State} (hn : 1 ≤ n)
    (hbits : s.pos.toNat + n ≤ 8 * s.ilen.toNat) (hbytes : 8 * s.ibufBytes < s.pos.toNat + n) :
    readBits n s = .noByte ((s.pos.toNat + n - 1) / 8) := by
  have hlast : s.ibufBytes ≤ lastByteOf n s := by
    rw [lastByteOf]
    omega
  rw [readBits, if_neg (not_bitsLeft_lt hn hbits), if_pos hlast, lastByteOf]

theorem withField_of_bytes {n : Nat} (k : BitVec n → State → Out) {s : State} (hn : 1 ≤ n)
    (hbits : s.pos.toNat + n ≤ 8 * s.ilen.toNat) (hbytes : s.pos.toNat + n ≤ 8 * s.ibufBytes) :
    withField n k s = k (BitVec.ofNat n (nextBits n s)) (s.advance n) := by
  rw [withField, readBits_of_bytes hn hbits hbytes]

theorem withField_of_noByte {n : Nat} (k : BitVec n → State → Out) {s : State} (hn : 1 ≤ n)
    (hbits : s.pos.toNat + n ≤ 8 * s.ilen.toNat) (hbytes : 8 * s.ibufBytes < s.pos.toNat + n) :
    withField n k s = .fault (.noInputByte ((s.pos.toNat + n - 1) / 8)) := by
  rw [withField, readBits_of_noByte hn hbits hbytes]

/-- Settles O10: the read names the missing byte, or gives its value with the cursor at whatever
`cursorAt` holds beyond 63. -/
theorem readBitsOutsideTheBlock : Obligations.ReadBitsOutsideTheBlock := by
  refine fun n s h1 h32 hbits => ⟨fun hbytes => ?_,
    fun hbytes _ => ⟨cursorAt (s.pos.toNat + n.toNat), ?_⟩⟩
  · change execReadbits n s = _
    rw [execReadbits, if_pos ⟨h1, h32⟩, readBits_of_noByte h1 hbits hbytes]
  · exact execReadbits_of_value h1 h32 (readBits_of_bytes h1 hbits hbytes)

/-- Settles O11: the width is tested before anything is read. -/
theorem readWidthRefused : Obligations.ReadWidthRefused := by
  intro n s hn
  refine if_neg fun ⟨h1, h32⟩ => ?_
  rw [Config.readMax] at h32
  bv_omega

/-- The row a `baseType` value selects runs the value's action. -/
theorem exec_decodeAot5 (v : BitVec 5) (s : State) : exec (decodeAot5 v) s = onBaseType v s := by
  unfold decodeAot5 onBaseType
  split_ifs <;> rfl

/-- Settles O19: the step goes on with the field's value and the cursor past it, and the action it
takes is that of the value's row. -/
theorem decoderStepRunsFieldRow : Obligations.DecoderStepRunsFieldRow := by
  refine fun n s hbits hbytes => ⟨cursorAt (s.pos.toNat + n), cursorAt_toNat _, ?_, ?_, ?_, ?_, ?_⟩
  · rintro rfl
    exact (withField_of_bytes onBaseType (by decide) hbits hbytes).trans (exec_decodeAot5 _ _).symm
  · rintro rfl
    exact withField_of_bytes onExt (by decide) hbits hbytes
  · rintro rfl
    exact (withField_of_bytes onFreqIdx (by decide) hbits hbytes).trans
      (exec_of_decodeSfi4 rfl _).symm
  · rintro rfl
    exact withField_of_bytes onRate (by decide) hbits hbytes
  · rintro rfl
    exact (withField_of_bytes onChanCfg (by decide) hbits hbytes).trans
      (exec_of_decodeCc4 rfl _).symm

/-- Settles O20: each of the five steps reads a field of the listed width. -/
theorem decoderStepOutsideTheBlock : Obligations.DecoderStepOutsideTheBlock := by
  intro i n s hmem hbits hbytes
  simp only [List.mem_cons, Prod.mk.injEq, List.not_mem_nil, or_false] at hmem
  rcases hmem with ⟨rfl, rfl⟩ | ⟨rfl, rfl⟩ | ⟨rfl, rfl⟩ | ⟨rfl, rfl⟩ | ⟨rfl, rfl⟩ <;>
    exact withField_of_noByte _ (by decide) hbits hbytes

/-- The extended type as the number `32 + ext` in its 7 bits (30_encoding.md R93). -/
theorem extendedType_eq_ofNat (v : BitVec 6) :
    extendedType v = BitVec.ofNat 7 (32 + v.toNat) := by
  rw [← extendedType_toNat, BitVec.ofNat_toNat, BitVec.setWidth_eq]

/-- Settles O22: the row's action is the field's, whose payload does not wrap. -/
theorem extActions : Obligations.ExtActions := by
  refine fun v s => ⟨rfl, (onExt_eq v s).trans ?_⟩
  rw [extendedType_eq_ofNat]
  rfl

/-- Settles O24: the table evaluates to the spec's rates. -/
theorem sfiTableEntries : Obligations.SfiTableEntries := rfl

end Sys2Proof.Laws

/-! PROOF. The canonical form of the input memory is unique (log entry 19). -/

namespace Sys2Proof.Laws

open Sys2Proof.Machine

@[simp] theorem memory_read_cons_same (a : Nat) (b : Byte) (m : Memory) :
    Memory.read ((a, b) :: m) a = b := by
  simp [Memory.read]

theorem memory_read_cons_ne {a i : Nat} (b : Byte) (m : Memory) (h : a ≠ i) :
    Memory.read ((a, b) :: m) i = m.read i := by
  simp [Memory.read, h]

/-- In canonical memories that read alike the first index listed of one is not below all of the
other's. -/
theorem exists_le_of_reads_alike {a : Nat} {b : Byte} {m m' : Memory} (hb : b ≠ unlistedByte)
    (h : ∀ i, Memory.read ((a, b) :: m) i = m'.read i) : ∃ c ∈ m', c.1 ≤ a := by
  by_contra hbelow
  push Not at hbelow
  exact hb (by rw [← memory_read_cons_same a b m, h, memory_read_below m' a hbelow])

/-- Settles O48, by induction on the list: the first entries have the same index, since neither can
come before the other, and so the same byte; the rests read alike. -/
theorem canonicalMemoriesEqual : Obligations.CanonicalMemoriesEqual := by
  intro m
  induction m with
  | nil =>
    rintro (_ | ⟨⟨a', b'⟩, m'⟩) - hwf' h
    · rfl
    · obtain ⟨hb', -⟩ := (memory_wf_cons a' b' m').1 hwf'
      obtain ⟨c, hc, -⟩ := exists_le_of_reads_alike hb' fun i => (h i).symm
      cases hc
  | cons c m ih =>
    obtain ⟨a, b⟩ := c
    rintro (_ | ⟨⟨a', b'⟩, m'⟩) hwf hwf' h
    · obtain ⟨hb, -⟩ := (memory_wf_cons a b m).1 hwf
      obtain ⟨c, hc, -⟩ := exists_le_of_reads_alike hb h
      cases hc
    · obtain ⟨hb, hlt, hwfm⟩ := (memory_wf_cons a b m).1 hwf
      obtain ⟨hb', hlt', hwfm'⟩ := (memory_wf_cons a' b' m').1 hwf'
      have hle : a' ≤ a := by
        obtain ⟨c, hc, hca⟩ := exists_le_of_reads_alike hb h
        rcases List.mem_cons.1 hc with rfl | hc
        · exact hca
        · exact (hlt' c hc).le.trans hca
      have hge : a ≤ a' := by
        obtain ⟨c, hc, hca⟩ := exists_le_of_reads_alike hb' fun i => (h i).symm
        rcases List.mem_cons.1 hc with rfl | hc
        · exact hca
        · exact (hlt c hc).le.trans hca
      obtain rfl : a = a' := le_antisymm hge hle
      obtain rfl : b = b' := by simpa using h a
      have hrest : ∀ i, Memory.read m i = Memory.read m' i := fun i => by
        by_cases hi : a = i
        · rw [← hi, memory_read_below m a hlt, memory_read_below m' a hlt']
        · simpa [memory_read_cons_ne _ _ hi] using h i
      rw [ih m' hwfm hwfm' hrest]

end Sys2Proof.Laws

/-! PROOF. A bus access reaches the block whose window holds its address (20_memory.md section
6). -/

namespace Sys2Proof.Laws

open Sys2Proof.Machine

/-- Settles O60, by induction on the blocks before: each is passed by, and the block's own window
holds the address at the offset. -/
theorem busAccessReachesItsWindow : Obligations.BusAccessReachesItsWindow := by
  intro before after p off wr data hbefore
  induction before with
  | nil =>
    have hin : inWindow p.base (p.base + off.toNat) = true :=
      decide_eq_true ⟨by omega, by have := off.isLt; omega⟩
    rw [List.nil_append, System.present, if_pos hin, Nat.add_sub_cancel_left, BitVec.ofNat_toNat,
      BitVec.setWidth_eq]
    rfl
  | cons q before ih =>
    obtain ⟨hq, hrest⟩ := List.forall_mem_cons.1 hbefore
    have hout : ¬ inWindow q.base (p.base + off.toNat) = true := by
      rw [inWindow, decide_eq_true_eq]
      omega
    rw [List.cons_append, System.present, if_neg hout, ih hrest]
    rfl

end Sys2Proof.Laws

/-! PROOF. Every host access completes in its one step (42_host_interface.md R200), and what it can
do there: the answer to a read, the ignored writes, and the three writes that take effect in
`IDLE`. -/

namespace Sys2Proof.Laws

open Sys2Proof.Machine Sys2Proof.Safety

/-- Everything a host access can do to the block. -/
inductive HostEffect (s : State) : State → Prop where
  | nothing : HostEffect s s
  | answer (v : Word) : HostEffect s (s.answerHost v)
  | started (hs : s.state = Fsm.idle) : HostEffect s (startDecode s)
  | length (hs : s.state = Fsm.idle) (v : BitVec 8) : HostEffect s (s.setIlen v)
  | byte (hs : s.state = Fsm.idle) {i : Nat} (hi : i < s.ibufBytes) (v : Byte) :
      HostEffect s (s.setByte i v)

/-- A write that takes effect in `IDLE` only has its effect or none. -/
theorem whenIdle_effect {s : State} {o : Out}
    (h : s.state = Fsm.idle → ∃ t, o = .next t ∧ HostEffect s t) :
    ∃ t, whenIdle s o = .next t ∧ HostEffect s t := by
  by_cases hs : s.state = Fsm.idle
  · rw [whenIdle_of_idle hs]
    exact h hs
  · exact ⟨s, whenIdle_of_busy hs o, .nothing⟩

theorem exec_decodeWrite_effect (off : BitVec 8) (data : Word) (s : State) :
    ∃ t, exec (decodeWrite s.ibufBytes off data) s = .next t ∧ HostEffect s t := by
  unfold decodeWrite
  split_ifs
  · exact whenIdle_effect fun hs => ⟨_, rfl, .started hs⟩
  · exact ⟨_, rfl, .nothing⟩
  · exact whenIdle_effect fun hs => ⟨_, rfl, .length hs _⟩
  · split
    next i hi =>
      have hib := (ibufIndex_eq_some hi).1
      exact whenIdle_effect fun hs => ⟨_, if_pos hib, .byte hs hib _⟩
    next => exact ⟨_, rfl, .nothing⟩

theorem exec_decodeRead_effect (off : BitVec 8) (data : Word) (s : State) :
    ∃ t, exec (decodeRead s.ibufBytes off data) s = .next t ∧ HostEffect s t := by
  unfold decodeRead
  split_ifs
  iterate 7 exact ⟨_, rfl, .answer _⟩
  split
  next i hi => exact ⟨_, if_pos (ibufIndex_eq_some hi).1, .answer _⟩
  next => exact ⟨_, rfl, .answer _⟩

/-- A host access runs to a next state: the decoder of transaction words gives no index of a byte
register the block lacks. -/
theorem exec_decodeHost_effect (w : HostAcc) (s : State) :
    ∃ t, exec (decodeHost s.ibufBytes w) s = .next t ∧ HostEffect s t := by
  unfold decodeHost
  split_ifs
  · exact exec_decodeWrite_effect _ _ s
  · exact exec_decodeRead_effect _ _ s

theorem HostEffect.turns_eq {s t : State} (h : HostEffect s t) : t.turns = s.turns := by
  cases h <;> rfl

/-- While busy a host access changes nothing but the host's answer. -/
theorem HostEffect.of_busy {s t : State} (h : HostEffect s t) (hs : s.state ≠ Fsm.idle) :
    t = { s with hostRead := t.hostRead } := by
  cases h with
  | nothing => rfl
  | answer v => rfl
  | started hidle | length hidle | byte hidle => exact absurd hidle hs

/-- A host turn takes its turn and has the access's effect. -/
theorem step_of_host_effect {s : State} {w : HostAcc} {ts : List Turn} (hc : legalCodes s)
    (ht : s.turns = .host w :: ts) :
    ∃ t, step s = .next t ∧ HostEffect { s with turns := ts } t := by
  rw [step_of_host hc ht, popTurn_of_turns ht]
  exact exec_decodeHost_effect w { s with turns := ts }

/-- Settles O34: a host access has an effect, and none touches the turns to come. -/
theorem hostAccessCompletes : Obligations.HostAccessCompletes := by
  intro w ts s hc ht
  obtain ⟨t, hstep, heffect⟩ := step_of_host_effect hc ht
  exact ⟨t, hstep, heffect.turns_eq⟩

/-- While busy every write row changes nothing. -/
theorem exec_decodeWrite_of_busy (ib : Nat) (off : BitVec 8) (data : Word) {s : State}
    (hs : s.state ≠ Fsm.idle) : exec (decodeWrite ib off data) s = .next s := by
  unfold decodeWrite
  split_ifs
  · exact whenIdle_of_busy hs _
  · rfl
  · exact whenIdle_of_busy hs _
  · split
    next => exact whenIdle_of_busy hs _
    next => rfl

/-- Settles O36: a write word selects a write row, and each of those is ignored while busy. -/
theorem writesWhileBusyAreLost : Obligations.WritesWhileBusyAreLost := by
  intro w ts s hc hs hw ht
  rw [step_of_host hc ht, popTurn_of_turns ht, decodeHost, if_pos hw]
  exact exec_decodeWrite_of_busy _ _ _ (s := { s with turns := ts }) hs

/-- Settles O37: in `IDLE` the decoder's turn passes, and a host access that is not a START stays in
the host's frame. -/
theorem resultStaysUntilStart : Obligations.ResultStaysUntilStart := by
  intro s t hs hno hstart h
  rcases turn_cases s with ⟨ts, ht⟩ | ⟨w, ts, ht⟩ | ht
  · exact absurd ht (hno ts)
  · rw [step_of_host (legalCodes_of_step_next h) ht] at h
    rcases exec_decodeHost_cases h with ⟨hw, -⟩ | hframe
    · exact absurd hw (hstart w ts ht)
    · rw [hframe]
      exact ⟨hs, rfl, rfl, rfl, rfl, rfl, rfl⟩
  · rcases decoderStep_cases ht h with ⟨-, rfl⟩ | ⟨hbusy, -⟩
    · exact ⟨hs, rfl, rfl, rfl, rfl, rfl, rfl⟩
    · exact absurd hs hbusy

end Sys2Proof.Laws

/-! PROOF. The codes of `STATE` (41_config_decoder.md section 1): who leaves `IDLE`, and that no
step writes 6 or 7. -/

namespace Sys2Proof.Laws

open Sys2Proof.Machine Sys2Proof.Safety

/-- A `baseType` value is 2, the escape, or fails with itself as payload. -/
theorem onBaseType_cases (v : BitVec 5) (s : State) :
    (v = 2#5 ∧ onBaseType v s = .next (s.goto Fsm.sSfi)) ∨
    (v = 31#5 ∧ onBaseType v s = .next (s.goto Fsm.sAotExt)) ∨
    (v ≠ 2#5 ∧ v ≠ 31#5 ∧
      onBaseType v s = .next (finishErr .unsupportedType (v.setWidth 7) s)) := by
  by_cases h2 : v = 2#5
  · exact .inl ⟨h2, by rw [h2]; rfl⟩
  · by_cases h31 : v = 31#5
    · exact .inr (.inl ⟨h31, by rw [h31]; rfl⟩)
    · exact .inr (.inr ⟨h2, h31, onBaseType_of_unsupported h2 h31 s⟩)

/-- A next state, if there is one, has one of the six codes of `STATE`. -/
def WritesLegalState (o : Out) : Prop := ∀ t, o = .next t → t.state.toNat ≤ 5

theorem writesLegalState_next {t : State} (h : t.state.toNat ≤ 5) : WritesLegalState (.next t) :=
  fun _ ht => Host.Outcome.next.inj ht ▸ h

theorem onBaseType_writesLegalState (v : BitVec 5) (s : State) :
    WritesLegalState (onBaseType v s) := by
  rcases onBaseType_cases v s with ⟨-, e⟩ | ⟨-, e⟩ | ⟨-, -, e⟩ <;> rw [e] <;>
    exact writesLegalState_next (by simp)

theorem onExt_writesLegalState (v : BitVec 6) (s : State) : WritesLegalState (onExt v s) := by
  rw [onExt_eq]
  exact writesLegalState_next (by simp)

theorem onFreqIdx_writesLegalState (v : BitVec 4) (s : State) :
    WritesLegalState (onFreqIdx v s) := by
  rcases onFreqIdx_cases v s with ⟨-, e⟩ | ⟨-, e⟩ | ⟨-, e⟩ <;> rw [e] <;>
    exact writesLegalState_next (by simp)

theorem onRate_writesLegalState (v : Rate) (s : State) : WritesLegalState (onRate v s) :=
  writesLegalState_next (by simp)

theorem onChanCfg_writesLegalState (v : BitVec 4) (s : State) :
    WritesLegalState (onChanCfg v s) := by
  rcases onChanCfg_cases v s with ⟨-, e⟩ | ⟨-, -, e⟩ | ⟨-, e⟩ <;> rw [e] <;>
    exact writesLegalState_next (by simp)

theorem withField_writesLegalState {n : Nat} {k : BitVec n → State → Out}
    (hk : ∀ v s, WritesLegalState (k v s)) (s : State) : WritesLegalState (withField n k s) := by
  rcases withField_cases n k s with ⟨-, e⟩ | ⟨-, -, e⟩ | ⟨-, -, e⟩ <;> rw [e]
  · exact writesLegalState_next (by simp)
  · intro t ht
    cases ht
  · exact hk _ _

/-- No step writes `STATE` code 6 or 7. -/
theorem step_writesLegalState (s : State) : WritesLegalState (step s) := by
  intro t h
  have hc := legalCodes_of_step_next h
  rcases turn_cases s with ⟨ts, ht⟩ | ⟨w, ts, ht⟩ | ht
  · rw [step_of_rst hc ht] at h
    cases h
    simp
  · rw [step_of_host hc ht] at h
    rcases exec_decodeHost_cases h with ⟨-, -, rfl⟩ | hframe
    · simp
    · rw [hframe.state_eq]
      exact hc.1
  · rcases decodeFsm_cases hc.1 with
      ⟨hs, hi⟩ | ⟨hs, hi⟩ | ⟨hs, hi⟩ | ⟨hs, hi⟩ | ⟨hs, hi⟩ | ⟨hs, hi⟩ <;>
      rw [step_of_decoderTurn hc ht hi] at h
    · cases h
      exact hc.1
    · exact withField_writesLegalState onBaseType_writesLegalState _ t h
    · exact withField_writesLegalState onExt_writesLegalState _ t h
    · exact withField_writesLegalState onFreqIdx_writesLegalState _ t h
    · exact withField_writesLegalState onRate_writesLegalState _ t h
    · exact withField_writesLegalState onChanCfg_writesLegalState _ t h

/-- A step that leaves `IDLE` takes a host turn that is a START. -/
theorem start_of_step_leaves_idle {s t : State} (hs : s.state = Fsm.idle) (h : step s = .next t)
    (hbusy : t.state ≠ Fsm.idle) : ∃ w ts, s.turns = Turn.host w :: ts ∧ isStart w := by
  rcases turn_cases s with ⟨ts, ht⟩ | ⟨w, ts, ht⟩ | ht
  · rw [step_of_rst (legalCodes_of_step_next h) ht] at h
    cases h
    exact absurd rfl hbusy
  · rw [step_of_host (legalCodes_of_step_next h) ht] at h
    rcases exec_decodeHost_cases h with ⟨hw, -⟩ | hframe
    · exact ⟨w, ts, ht, hw⟩
    · exact absurd (hframe.state_eq.trans hs) hbusy
  · rcases decoderStep_cases ht h with ⟨-, rfl⟩ | ⟨hs', -⟩
    · exact absurd hs hbusy
    · exact absurd hs hs'

/-- Settles O12: the idle turn passes, a START alone leaves `IDLE`, and the codes no rule writes are
refused before any turn is taken. -/
theorem idleOnlyStartLeaves : Obligations.IdleOnlyStartLeaves := by
  refine ⟨fun _ => rfl, fun s hc hs ht => ?_, fun s t => start_of_step_leaves_idle, fun s h6 => ?_,
    fun s h5 h6 => ?_, fun s t h => step_writesLegalState s t h⟩
  · exact step_of_decoderTurn (i := .idle) hc ht (by rw [hs]; rfl)
  · simp [step, stateRefusal, h6]
  · have hstate : ¬ 6 ≤ s.state.toNat := by omega
    simp [step, stateRefusal, hstate, h6]

end Sys2Proof.Laws

/-! PROOF. What results can be (10_state.md R26 to R28), in the numbers the decode reads. -/

namespace Sys2Proof.Laws

open Sys2Proof.Machine Sys2Proof.Safety

theorem payloadOk_endOfInput : payloadOk (kindCode .endOfInput) 0#7 := .inl ⟨rfl, rfl⟩

theorem payloadOk_ccNotSupported : payloadOk (kindCode .ccNotSupported) 0#7 :=
  .inr (.inr (.inr (.inr ⟨rfl, rfl⟩)))

theorem payloadOk_unsupportedType {a : Nat} (h95 : a ≤ 95) (h2 : a ≠ 2) (h31 : a ≠ 31) :
    payloadOk (kindCode .unsupportedType) (BitVec.ofNat 7 a) := by
  refine .inr (.inl ⟨rfl, ?_⟩)
  bv_omega

theorem payloadOk_invalidSfi {f : Nat} (hf : f = 13 ∨ f = 14) :
    payloadOk (kindCode .invalidSfi) (BitVec.ofNat 7 f) := by
  refine .inr (.inr (.inl ⟨rfl, ?_⟩))
  rcases hf with rfl | rfl
  · exact .inl rfl
  · exact .inr rfl

theorem payloadOk_invalidCc {c : Nat} (h8 : 8 ≤ c) (h15 : c ≤ 15) :
    payloadOk (kindCode .invalidCc) (BitVec.ofNat 7 c) := by
  refine .inr (.inr (.inr (.inl ⟨rfl, ?_⟩)))
  bv_omega

/-- The channel count of a layout is its number, but 8 for layout 7 (30_encoding.md R99). -/
theorem channelCount_eq_ofNat (v : BitVec 4) :
    channelCount v = BitVec.ofNat 4 (if v.toNat = 7 then 8 else v.toNat) := by
  revert v
  decide

end Sys2Proof.Laws

/-! PROOF. The block's invariant: it holds at reset, every step keeps it, and a state that meets it
steps (10_state.md sections 2 to 6, 41_config_decoder.md sections 1 to 3). A decoder step is taken
apart at the read of its field: `InProgress` is what holds between the read and the action. -/

namespace Sys2Proof.Laws

open Sys2Proof.Machine Sys2Proof.Safety

/-- A decode is in progress: what the invariant says of a busy block, whatever the code in `STATE`
and wherever below 38 the cursor stands. -/
structure InProgress (s : State) : Prop where
  bytes : Config.ibufBytesMin ≤ s.ibufBytes ∧ s.ibufBytes ≤ Config.ibufBytesMax
  memory : memoryOk s
  notDone : s.done = false
  clear : resultsClear s
  inside : s.pos.toNat ≤ 8 * s.ilen.toNat
  bound : s.pos.toNat ≤ 37

theorem inProgress_of_busy {s : State} (h : BlockInv s) (hs : s.state ≠ Fsm.idle) :
    InProgress s := by
  obtain ⟨hdone, hclear, hinside⟩ := h.whileBusy hs
  obtain ⟨-, -, -, -, -, hbound⟩ := h.cursor
  exact ⟨h.bytes, h.memory, hdone, hclear, hinside, hbound⟩

theorem afterRead_pos_toNat {n : Nat} {s : State} (h : canRead n s) :
    (afterRead n s).pos.toNat = s.pos.toNat + n := by
  obtain ⟨-, -, h64⟩ := h
  rw [afterRead, BitVec.toNat_ofNat, Nat.mod_eq_of_lt h64]

theorem InProgress.afterRead {n : Nat} {s : State} (h : InProgress s) (hcan : canRead n s)
    (hp : s.pos.toNat + n ≤ 37) : InProgress (afterRead n s) where
  bytes := h.bytes
  memory := h.memory
  notDone := h.notDone
  clear := h.clear
  inside := by rw [afterRead_pos_toNat hcan]; exact hcan.1
  bound := by rw [afterRead_pos_toNat hcan]; exact hp

/-- Inside the first 37 bits only the end of the input can keep a field from being read: the block
has at least five byte registers (00_scope.md R8, 41_config_decoder.md R170). -/
theorem InProgress.endOfInput_or_canRead {n : Nat} {s : State} (h : InProgress s)
    (hp : s.pos.toNat + n ≤ 37) : endOfInput n s ∨ canRead n s := by
  have hbytes := h.bytes.1
  rw [Config.ibufBytesMin] at hbytes
  rw [endOfInput, canRead]
  omega

/-- The decode goes on at another code, where the cursor is in its place. -/
theorem InProgress.goto {c : BitVec 3} {s : State} (h : InProgress s) (hc : c.toNat ≤ 5)
    (hcursor : cursorOk (s.goto c)) : BlockInv (s.goto c) where
  bytes := h.bytes
  memory := h.memory
  stateCode := hc
  cursor := hcursor
  whileBusy := fun _ => ⟨h.notDone, h.clear, h.inside⟩
  beforeDone := fun _ => h.clear
  whenDone := fun hdone => absurd hdone (by simp [h.notDone])

theorem InProgress.latchRate {s : State} (h : InProgress s) (r : Rate) :
    InProgress (s.latchRate r) :=
  ⟨h.bytes, h.memory, h.notDone, h.clear, h.inside, h.bound⟩

/-- Back in `IDLE` the cursor has only its bound to keep. -/
theorem cursorOk_of_idle {s : State} (hs : s.state = Fsm.idle) (hbound : s.pos.toNat ≤ 37) :
    cursorOk s := by
  refine ⟨?_, ?_, ?_, ?_, ?_, hbound⟩ <;> rw [hs] <;> intro hcode <;>
    exact absurd hcode (by decide)

/-- The decode ends in an error with a payload of its kind. -/
theorem InProgress.finishErr {k : ErrKind} {v : BitVec 7} {s : State} (h : InProgress s)
    (hv : payloadOk (kindCode k) v) : BlockInv (finishErr k v s) where
  bytes := h.bytes
  memory := h.memory
  stateCode := by simp
  cursor := cursorOk_of_idle rfl h.bound
  whileBusy := fun hbusy => absurd rfl hbusy
  beforeDone := fun hdone => absurd hdone (by simp)
  whenDone := fun _ => by
    obtain ⟨-, -, haot, hrate, hch⟩ := h.clear
    exact .inr ⟨hv, haot, hrate, hch⟩

/-- The decode ends in a record. -/
theorem InProgress.finishOk {r : Rate} {ch : BitVec 4} {s : State} (h : InProgress s)
    (hch : channelCountOk ch) : BlockInv (finishOk r ch s) where
  bytes := h.bytes
  memory := h.memory
  stateCode := by simp
  cursor := cursorOk_of_idle rfl h.bound
  whileBusy := fun hbusy => absurd rfl hbusy
  beforeDone := fun hdone => absurd hdone (by simp)
  whenDone := fun _ => .inl ⟨rfl, rfl, rfl, hch⟩

/-- The outcome is a next state that meets the invariant. -/
def StepsInInv (o : Out) : Prop := ∃ t, o = .next t ∧ BlockInv t

theorem onBaseType_stepsInInv (v : BitVec 5) {s : State} (h : InProgress s)
    (hpos : s.pos = 5#6) : StepsInInv (onBaseType v s) := by
  rcases onBaseType_cases v s with ⟨-, e⟩ | ⟨-, e⟩ | ⟨h2, h31, e⟩
  · exact ⟨_, e, h.goto (by decide) (by rw [cursorOk, goto_state, goto_pos, hpos]; decide)⟩
  · exact ⟨_, e, h.goto (by decide) (by rw [cursorOk, goto_state, goto_pos, hpos]; decide)⟩
  · refine ⟨_, e, h.finishErr ?_⟩
    rw [← BitVec.ofNat_toNat]
    exact payloadOk_unsupportedType (by omega) (by bv_omega) (by bv_omega)

theorem onExt_stepsInInv (v : BitVec 6) {s : State} (h : InProgress s) :
    StepsInInv (onExt v s) := by
  refine ⟨_, onExt_eq v s, h.finishErr ?_⟩
  rw [extendedType_eq_ofNat]
  exact payloadOk_unsupportedType (by omega) (by omega) (by omega)

theorem onFreqIdx_stepsInInv (v : BitVec 4) {s : State} (h : InProgress s)
    (hpos : s.pos = 9#6) : StepsInInv (onFreqIdx v s) := by
  rcases onFreqIdx_cases v s with ⟨-, e⟩ | ⟨hrsv, e⟩ | ⟨-, e⟩
  · exact ⟨_, e, (h.latchRate _).goto (by decide)
      (by rw [cursorOk, goto_state, goto_pos, latchRate_pos, hpos]; decide)⟩
  · refine ⟨_, e, h.finishErr ?_⟩
    rw [← BitVec.ofNat_toNat]
    exact payloadOk_invalidSfi (by bv_omega)
  · exact ⟨_, e, h.goto (by decide) (by rw [cursorOk, goto_state, goto_pos, hpos]; decide)⟩

theorem onRate_stepsInInv (v : Rate) {s : State} (h : InProgress s) (hpos : s.pos = 33#6) :
    StepsInInv (onRate v s) :=
  ⟨_, rfl, (h.latchRate v).goto (by decide)
    (by rw [cursorOk, goto_state, goto_pos, latchRate_pos, hpos]; decide)⟩

theorem onChanCfg_stepsInInv (v : BitVec 4) {s : State} (h : InProgress s) :
    StepsInInv (onChanCfg v s) := by
  rcases onChanCfg_cases v s with ⟨-, e⟩ | ⟨h1, h7, e⟩ | ⟨h8, e⟩
  · exact ⟨_, e, h.finishErr payloadOk_ccNotSupported⟩
  · refine ⟨_, e, h.finishOk ?_⟩
    rw [channelCount_eq_ofNat]
    exact channelCountOk_of_standard h1 h7
  · refine ⟨_, e, h.finishErr ?_⟩
    rw [← BitVec.ofNat_toNat]
    exact payloadOk_invalidCc h8 (by omega)

/-- A decoder step steps inside the invariant if its field's action does, with the cursor past the
field; end of input is an error of its kind. -/
theorem withField_stepsInInv {n : Nat} {k : BitVec n → State → Out} {s : State} {p q : BitVec 6}
    (hn : 1 ≤ n) (h : InProgress s) (hpos : s.pos = p) (hq : q.toNat = p.toNat + n)
    (h37 : q.toNat ≤ 37) (hk : ∀ v u, InProgress u → u.pos = q → StepsInInv (k v u)) :
    StepsInInv (withField n k s) := by
  subst hpos
  rw [hq] at h37
  rcases h.endOfInput_or_canRead h37 with hend | hcan
  · exact ⟨_, withField_of_endOfInput n k s hend hn, h.finishErr payloadOk_endOfInput⟩
  · rw [withField_of_canRead n k s hn hcan]
    exact hk _ _ (h.afterRead hcan h37)
      (BitVec.eq_of_toNat_eq (by rw [afterRead_pos_toNat hcan, hq]))

theorem blockInv_popTurn {s : State} (h : BlockInv s) : BlockInv s.popTurn :=
  ⟨h.bytes, h.memory, h.stateCode, h.cursor, h.whileBusy, h.beforeDone, h.whenDone⟩

/-- The row of the code in `STATE` steps inside the invariant. -/
theorem exec_decodeFsm_stepsInInv {s : State} {i : Instr} (h : BlockInv s)
    (hi : decodeFsm s.state = .ok i) : StepsInInv (exec i s) := by
  obtain ⟨haot, hext, hsfi, hrate, hcc, -⟩ := h.cursor
  have hgo : s.state ≠ Fsm.idle → InProgress s := inProgress_of_busy h
  rcases decodeFsm_cases h.stateCode with
    ⟨hs, e⟩ | ⟨hs, e⟩ | ⟨hs, e⟩ | ⟨hs, e⟩ | ⟨hs, e⟩ | ⟨hs, e⟩ <;>
    obtain rfl := Except.ok.inj (e.symm.trans hi) <;> rw [hs] at hgo
  · exact ⟨s, rfl, h⟩
  · exact withField_stepsInInv (by decide) (hgo (by decide)) (haot hs) (q := 5#6) rfl (by decide)
      fun v u => onBaseType_stepsInInv v
  · exact withField_stepsInInv (by decide) (hgo (by decide)) (hext hs) (q := 11#6) rfl (by decide)
      fun v u hu _ => onExt_stepsInInv v hu
  · exact withField_stepsInInv (by decide) (hgo (by decide)) (hsfi hs) (q := 9#6) rfl (by decide)
      fun v u => onFreqIdx_stepsInInv v
  · exact withField_stepsInInv (by decide) (hgo (by decide)) (hrate hs) (q := 33#6) rfl (by decide)
      fun v u => onRate_stepsInInv v
  · rcases hcc hs with hpos | hpos
    · exact withField_stepsInInv (by decide) (hgo (by decide)) hpos (q := 13#6) rfl (by decide)
        fun v u hu _ => onChanCfg_stepsInInv v hu
    · exact withField_stepsInInv (by decide) (hgo (by decide)) hpos (q := 37#6) rfl (by decide)
        fun v u hu _ => onChanCfg_stepsInInv v hu

/-- A write of a byte register the block has keeps the memory canonical and inside the block. -/
theorem memoryOk_setByte {s : State} {i : Nat} (h : memoryOk s) (hi : i < s.ibufBytes) (v : Byte) :
    memoryOk (s.setByte i v) := by
  refine ⟨memory_write_wf _ _ _ h.1, fun c hc => ?_⟩
  rcases memory_write_indices _ _ _ _ hc with hci | hmem
  · rw [hci]
    exact hi
  · exact h.2 c hmem

/-- Every effect of a host access keeps the invariant. -/
theorem HostEffect.blockInv {s t : State} (he : HostEffect s t) (h : BlockInv s) : BlockInv t := by
  cases he with
  | nothing => exact h
  | answer v =>
    exact ⟨h.bytes, h.memory, h.stateCode, h.cursor, h.whileBusy, h.beforeDone, h.whenDone⟩
  | started hs =>
    have hclear : resultsClear (startDecode s) := ⟨rfl, rfl, rfl, rfl, rfl⟩
    have hcursor : cursorOk (startDecode s) := by
      rw [cursorOk, startDecode_state, startDecode_pos]
      decide
    exact ⟨h.bytes, h.memory, by simp, hcursor, fun _ => ⟨rfl, hclear, Nat.zero_le _⟩,
      fun _ => hclear, fun hdone => absurd hdone (by simp)⟩
  | length hs v =>
    exact ⟨h.bytes, h.memory, h.stateCode, h.cursor, fun hbusy => absurd hs hbusy, h.beforeDone,
      h.whenDone⟩
  | byte hs hi v =>
    exact ⟨h.bytes, memoryOk_setByte h.memory hi v, h.stateCode, h.cursor, h.whileBusy,
      h.beforeDone, h.whenDone⟩

/-- A reset block meets the invariant if it has its bytes. -/
theorem blockInv_resetBlock {s : State}
    (hbytes : Config.ibufBytesMin ≤ s.ibufBytes ∧ s.ibufBytes ≤ Config.ibufBytesMax) :
    BlockInv (resetBlock s) where
  bytes := hbytes
  memory := ⟨memory_reset_wf, fun _ hc => absurd hc (by simp)⟩
  stateCode := by simp
  cursor := cursorOk_of_idle rfl (by simp)
  whileBusy := fun hbusy => absurd rfl hbusy
  beforeDone := fun _ => ⟨rfl, rfl, rfl, rfl, rfl⟩
  whenDone := fun hdone => absurd hdone (by simp)

/-- A state that meets the invariant holds legal codes: it shows nothing, a record, or an error of a
legal kind. -/
theorem legalCodes_of_blockInv {s : State} (h : BlockInv s) : legalCodes s := by
  refine ⟨h.stateCode, ?_⟩
  rcases shown_cases h with ⟨-, hkind, -⟩ | ⟨-, hkind, -⟩ | ⟨-, hpayload, -⟩
  · simp [hkind]
  · simp [hkind]
  · rcases hpayload with ⟨hkind, -⟩ | ⟨hkind, -⟩ | ⟨hkind, -⟩ | ⟨hkind, -⟩ | ⟨hkind, -⟩ <;>
      simp [hkind]

/-- From the invariant every turn steps inside the invariant. -/
theorem step_stepsInInv {s : State} (h : BlockInv s) : StepsInInv (step s) := by
  have hc := legalCodes_of_blockInv h
  rcases turn_cases s with ⟨ts, ht⟩ | ⟨w, ts, ht⟩ | ht
  · exact ⟨_, step_of_rst hc ht, blockInv_resetBlock h.bytes⟩
  · obtain ⟨t, hstep, heffect⟩ := exec_decodeHost_effect w s.popTurn
    exact ⟨t, (step_of_host hc ht).trans hstep, heffect.blockInv (blockInv_popTurn h)⟩
  · obtain ⟨i, hi⟩ : ∃ i, decodeFsm s.state = .ok i := by
      rcases decodeFsm_cases hc.1 with
        ⟨-, e⟩ | ⟨-, e⟩ | ⟨-, e⟩ | ⟨-, e⟩ | ⟨-, e⟩ | ⟨-, e⟩ <;> exact ⟨_, e⟩
    rw [step_of_decoderTurn hc ht hi]
    exact exec_decodeFsm_stepsInInv (blockInv_popTurn h) hi

/-- Settles O46: the next state is the one that meets the invariant. -/
theorem stepKeepsInvariant : Obligations.StepKeepsInvariant := by
  intro s t h hstep
  obtain ⟨u, hu, hinv⟩ := step_stepsInInv h
  rw [hu] at hstep
  cases hstep
  exact hinv

/-- Settles O47. -/
theorem invariantStateSteps : Obligations.InvariantStateSteps := by
  intro s h
  obtain ⟨t, ht, -⟩ := step_stepsInInv h
  exact ⟨t, ht⟩

/-- Settles O45: the reset state is a reset block with the default number of bytes. -/
theorem resetMeetsInvariant : Obligations.ResetMeetsInvariant :=
  blockInv_resetBlock (s := State.reset) (by decide)

/-- Settles O18: at `S_CC` the cursor stands at 9 or 33 inside a whole number of bytes, so at least
seven more bits are there. -/
theorem channelFieldNeverShort : Obligations.ChannelFieldNeverShort := by
  intro s h hs
  have hgo : InProgress s := inProgress_of_busy h (by rw [hs]; decide)
  obtain ⟨-, -, -, -, hcc, -⟩ := h.cursor
  have hinside := hgo.inside
  have hnot : s.pos.toNat + 4 ≤ 37 ∧ ¬ endOfInput 4 s := by
    rw [endOfInput]
    rcases hcc hs with hpos | hpos <;> rw [hpos] at hinside ⊢ <;>
      simp only [BitVec.toNat_ofNat] at hinside ⊢ <;> omega
  exact ⟨hnot.2, (hgo.endOfInput_or_canRead hnot.1).resolve_left hnot.2⟩

end Sys2Proof.Laws

/-! PROOF. A field value placed in the input is the one the next step reads (30_encoding.md sections
1 and 2; log entry 13). -/

namespace Sys2Proof.Laws

open Sys2Proof.Machine Sys2Proof.Safety

/-- A byte put together from eight bits of a stream has those bits. -/
theorem getLsbD_assembled_byte (bit : Nat → Bool) (k : Nat) :
    (BitVec.ofNat 8 (assembleBits bit (8 * (k / 8)) 8)).getLsbD (7 - k % 8) = bit k := by
  have hdigit := assembleBits_testBit bit (8 * (k / 8)) (Nat.mod_lt k (by decide : 0 < 8))
  rw [Nat.div_add_mod] at hdigit
  have hin : 7 - k % 8 < 8 := by omega
  rw [BitVec.getLsbD_ofNat, hdigit]
  simp [hin]

/-- Writing bytes 0 to `k - 1` in turn leaves exactly those bytes written. -/
theorem memory_write_range {m : Memory} (hwf : Memory.wf m = true) (f : Nat → Byte) (k : Nat) :
    Memory.wf ((List.range k).foldl (fun acc i => acc.write i (f i)) m) = true ∧
    ∀ i, i < k → Memory.read ((List.range k).foldl (fun acc i => acc.write i (f i)) m) i = f i := by
  induction k with
  | zero => exact ⟨hwf, fun i hi => absurd hi (Nat.not_lt_zero i)⟩
  | succ k ih =>
    obtain ⟨ihwf, ihread⟩ := ih
    simp only [List.range_succ, List.foldl_append, List.foldl_cons, List.foldl_nil]
    refine ⟨memory_write_wf _ _ _ ihwf, fun i hi => ?_⟩
    by_cases hik : i = k
    · rw [hik, memory_read_write_same _ _ _ ihwf]
    · rw [memory_read_write_ne _ _ _ _ hik, ihread i (by omega)]

/-- The stream bits of a placed field are the digits of its value. -/
theorem streamBit_placedInput {m : Memory} (hwf : Memory.wf m = true) (v : Nat) {p n j : Nat}
    (hj : j < n) (hp : p + n ≤ 40) :
    streamBit (placedInput m v p n).read (p + j) = v.testBit (n - 1 - j) := by
  have hbyte : (placedInput m v p n).read ((p + j) / 8) = placedByte m.read v p n ((p + j) / 8) :=
    (memory_write_range hwf (placedByte m.read v p n) 5).2 _ (by omega)
  rw [streamBit, hbyte, placedByte, getLsbD_assembled_byte, if_pos (by omega),
    Nat.add_sub_cancel_left]

theorem fieldValue_placedInput {m : Memory} (hwf : Memory.wf m = true) {v p n : Nat}
    (hv : v < 2 ^ n) (hp : p + n ≤ 40) : fieldValue (placedInput m v p n).read p n = v :=
  assembleBits_eq_of_testBit hv fun _ hj => streamBit_placedInput hwf v hj hp

theorem placeField_pos_toNat (s : State) (st : BitVec 3) {p : Nat} (n v : Nat) (hp : p < 64) :
    (placeField s st p n v).pos.toNat = p := by
  rw [placeField, BitVec.toNat_ofNat, Nat.mod_eq_of_lt hp]

/-- The placed state has the field's bits in its input, its bytes in the block and its end in the
cursor. -/
theorem canRead_placeField {s : State} (st : BitVec 3) {p n : Nat} (v : Nat) (h5 : 5 ≤ s.ibufBytes)
    (hp : p + n ≤ 40) : canRead n (placeField s st p n v) := by
  have hpos : (placeField s st p n v).pos.toNat = p := placeField_pos_toNat s st n v (by omega)
  have hilen : (p + n + 7) / 8 ≤ (placeField s st p n v).ilen.toNat := by
    have := s.ilen.isLt
    rw [placeField, BitVec.toNat_ofNat, Nat.mod_eq_of_lt (by omega)]
    exact Nat.le_max_right _ _
  have hbytes : (placeField s st p n v).ibufBytes = s.ibufBytes := rfl
  rw [canRead, hpos, hbytes]
  omega

/-- The step after placing a field value goes on with that value, the cursor past the field. -/
theorem step_placeField {s : State} {st : BitVec 3} {i : Instr} {n : Nat}
    {k : BitVec n → State → Out} (p : Nat) (v : BitVec n) (hmem : memoryOk s)
    (h5 : 5 ≤ s.ibufBytes) (hkind : s.kind.toNat ≤ 5) (hst : st.toNat ≤ 5)
    (hi : decodeFsm st = .ok i) (hexec : ∀ u, exec i u = withField n k u) (hn : 1 ≤ n)
    (hp : p + n ≤ 40) :
    ∃ u, step (placeField s st p n v.toNat) = k v u ∧ u.pos = BitVec.ofNat 6 (p + n) := by
  have hpos : (placeField s st p n v.toNat).pos.toNat = p :=
    placeField_pos_toNat s st n v.toNat (by omega)
  have hfield : nextBits n (placeField s st p n v.toNat) = v.toNat := by
    rw [nextBits, hpos]
    exact fieldValue_placedInput hmem.1 v.isLt hp
  have hcan : canRead n (placeField s st p n v.toNat) := canRead_placeField st v.toNat h5 hp
  refine ⟨afterRead n (placeField s st p n v.toNat).popTurn, ?_, by
    rw [afterRead, popTurn_pos, hpos]⟩
  rw [step_of_decoderTurn (s := placeField s st p n v.toNat) ⟨hst, hkind⟩ (.inr ⟨_, rfl⟩) hi, hexec]
  exact withField_of_field (s := (placeField s st p n v.toNat).popTurn) k hn hfield hcan

/-- Settles O40: each of the five fields is placed where its step reads it, and the action of the
value is that of its row. -/
theorem placedFieldRuns : Obligations.PlacedFieldRuns := by
  intro s hmem h5 hkind
  refine ⟨fun v => ?_, fun v => ?_, fun v => ?_, fun v => ?_, fun v => ?_⟩
  · obtain ⟨u, hstep, hpos⟩ := step_placeField (st := Fsm.sAot) 0 v hmem h5 hkind (by decide) rfl
      (fun _ => rfl) (by decide) (by decide)
    exact ⟨u, hstep.trans (exec_decodeAot5 v u).symm, hpos⟩
  · exact step_placeField (st := Fsm.sAotExt) 5 v hmem h5 hkind (by decide) rfl
      (fun _ => rfl) (by decide) (by decide)
  · obtain ⟨u, hstep, hpos⟩ := step_placeField (st := Fsm.sSfi) 5 v hmem h5 hkind (by decide) rfl
      (fun _ => rfl) (by decide) (by decide)
    exact ⟨u, hstep.trans (exec_of_decodeSfi4 rfl u).symm, hpos⟩
  · exact step_placeField (st := Fsm.sRate) 9 v hmem h5 hkind (by decide) rfl
      (fun _ => rfl) (by decide) (by decide)
  · obtain ⟨u, hstep, hpos⟩ := step_placeField (st := Fsm.sCc) 9 v hmem h5 hkind (by decide) rfl
      (fun _ => rfl) (by decide) (by decide)
    exact ⟨u, hstep.trans (exec_of_decodeCc4 rfl u).symm, hpos⟩

end Sys2Proof.Laws

/-! PROOF. The function of a decode (41_config_decoder.md R168): its errors' payloads, the two paths
to a record, and what a prefix of the input gives. -/

namespace Sys2Proof.Laws

open Sys2Proof.Machine Sys2Proof.Safety

/-- Settles O49: each of the seven inputs evaluates to its result. -/
theorem sourceScenarios : Obligations.SourceScenarios := by
  unfold Obligations.SourceScenarios
  decide

/-- A result that is an error has a payload of its kind. -/
def ErrorPayloadOk (r : AscResult) : Prop :=
  ∀ (k : ErrKind) (v : BitVec 7), r = .err k v → payloadOk (kindCode k) v

theorem errorPayloadOk_err {k : ErrKind} {v : BitVec 7} (h : payloadOk (kindCode k) v) :
    ErrorPayloadOk (.err k v) := by
  rintro _ _ ⟨⟩
  exact h

theorem errorPayloadOk_ok (r : AscRecord) : ErrorPayloadOk (.ok r) := by
  rintro _ _ ⟨⟩

theorem errorPayloadOk_endOfInput : ErrorPayloadOk ascEndOfInput :=
  errorPayloadOk_err payloadOk_endOfInput

theorem errorPayloadOk_ascFromChannels (B : List Byte) (p : Nat) (rate : Rate) :
    ErrorPayloadOk (ascFromChannels B p rate) := by
  unfold ascFromChannels
  split
  next => exact errorPayloadOk_endOfInput
  next c hread =>
    have hlt : c < 2 ^ 4 := readField_lt hread
    split_ifs with h0 h8 h7
    · exact errorPayloadOk_err payloadOk_ccNotSupported
    · exact errorPayloadOk_err (payloadOk_invalidCc h8 (by omega))
    · exact errorPayloadOk_ok _
    · exact errorPayloadOk_ok _

theorem errorPayloadOk_ascFromRate (B : List Byte) (p : Nat) :
    ErrorPayloadOk (ascFromRate B p) := by
  unfold ascFromRate
  split
  next => exact errorPayloadOk_endOfInput
  next => exact errorPayloadOk_ascFromChannels B _ _

theorem errorPayloadOk_ascFromIndex (B : List Byte) (p : Nat) :
    ErrorPayloadOk (ascFromIndex B p) := by
  unfold ascFromIndex
  split
  next => exact errorPayloadOk_endOfInput
  next =>
    split_ifs with h15 hrsv
    · exact errorPayloadOk_ascFromRate B _
    · exact errorPayloadOk_err (payloadOk_invalidSfi hrsv)
    · exact errorPayloadOk_ascFromChannels B _ _

theorem errorPayloadOk_ascCheckType (B : List Byte) (p : Nat) {a : Nat} (h95 : a ≤ 95)
    (h31 : a ≠ 31) : ErrorPayloadOk (ascCheckType B p a) := by
  unfold ascCheckType
  split_ifs with h2
  · exact errorPayloadOk_err (payloadOk_unsupportedType h95 h2 h31)
  · exact errorPayloadOk_ascFromIndex B p

theorem errorPayloadOk_ascFromExt (B : List Byte) (p : Nat) : ErrorPayloadOk (ascFromExt B p) := by
  unfold ascFromExt
  split
  next => exact errorPayloadOk_endOfInput
  next ext hread =>
    have hlt : ext < 2 ^ 6 := readField_lt hread
    exact errorPayloadOk_ascCheckType B _ (by omega) (by omega)

/-- Settles O51, along the fields the decode reads. -/
theorem errorPayloadRanges : Obligations.ErrorPayloadRanges := by
  intro B
  change ErrorPayloadOk (ascFromType B 0)
  unfold ascFromType
  split
  next => exact errorPayloadOk_endOfInput
  next a hread =>
    have hlt : a < 2 ^ 5 := readField_lt hread
    split_ifs with h31
    · exact errorPayloadOk_ascFromExt B _
    · exact errorPayloadOk_ascCheckType B _ (by omega) h31

/-- Settles O52: the three fields of the path are read back, and the index is one of the table's. -/
theorem tablePath : Obligations.TablePath := by
  intro f c hf h1 h7
  refine decodeAsc_ok_iff.2 ⟨?_, ascFromIndex_ok_iff.2 (.inr ⟨f, hf, ?_,
    ascFromChannels_ok_iff.2 ⟨c, ?_, h1, h7, rfl⟩⟩)⟩
  · exact readField_packBits [] [(4, f), (4, c)] (by decide)
  · exact readField_packBits [(5, 2)] [(4, c)] (by omega)
  · exact readField_packBits [(5, 2), (4, f)] [] (by omega)

/-- Settles O53: the four fields of the path are read back. -/
theorem explicitPath : Obligations.ExplicitPath := by
  intro r c hr h1 h7
  refine decodeAsc_ok_iff.2 ⟨?_, ascFromIndex_ok_iff.2 (.inl ⟨?_, ascFromRate_ok_iff.2
    ⟨r, ?_, ascFromChannels_ok_iff.2 ⟨c, ?_, h1, h7, rfl⟩⟩⟩)⟩
  · exact readField_packBits [] [(4, 15), (24, r), (4, c)] (by decide)
  · exact readField_packBits [(5, 2)] [(24, r), (4, c)] (by decide)
  · exact readField_packBits [(5, 2), (4, 15)] [(4, c)] hr
  · exact readField_packBits [(5, 2), (4, 15), (24, r)] [] (by omega)

/-- A field inside a prefix is read from it as from the whole input. -/
theorem readField_take_of_le (B : List Byte) {k p n : Nat} (h : p + n ≤ 8 * k) :
    readField (B.take k) p n = readField B p n := by
  have hshort : 8 * (B.take k).length - p < n ↔ 8 * B.length - p < n := by
    rw [List.length_take]
    omega
  have hbit : ∀ j, j < p + n → streamBit (fun i => (B.take k).getD i 0#8) j =
      streamBit (fun i => B.getD i 0#8) j := fun j hj => by
    have hbyte : j / 8 < k := by omega
    simp only [streamBit, List.getD_eq_getElem?_getD, List.getElem?_take_of_lt hbyte]
  simp only [readField, hshort, fieldValue, assembleBits_congr hbit]

/-- A field that does not end inside a prefix is not read from it. -/
theorem readField_take_of_lt (B : List Byte) {k p n : Nat} (hn : 1 ≤ n) (h : 8 * k < p + n) :
    readField (B.take k) p n = none := by
  refine if_pos ?_
  rw [List.length_take]
  omega

/-- Without its type field a decode ends at the end of the input. -/
theorem ascFromType_of_none {B : List Byte} {p : Nat} (h : readField B p 5 = none) :
    ascFromType B p = ascEndOfInput := by
  rw [ascFromType, h]

/-- Without its extension field a decode ends at the end of the input. -/
theorem ascFromExt_of_none {B : List Byte} {p : Nat} (h : readField B p 6 = none) :
    ascFromExt B p = ascEndOfInput := by
  rw [ascFromExt, h]

/-- Without its index field a decode ends at the end of the input. -/
theorem ascFromIndex_of_none {B : List Byte} {p : Nat} (h : readField B p 4 = none) :
    ascFromIndex B p = ascEndOfInput := by
  rw [ascFromIndex, h]

/-- Without its rate field a decode ends at the end of the input. -/
theorem ascFromRate_of_none {B : List Byte} {p : Nat} (h : readField B p 24 = none) :
    ascFromRate B p = ascEndOfInput := by
  rw [ascFromRate, h]

/-- Without its channel configuration a decode ends at the end of the input. -/
theorem ascFromChannels_of_none {B : List Byte} {p : Nat} {rate : Rate}
    (h : readField B p 4 = none) : ascFromChannels B p rate = ascEndOfInput := by
  rw [ascFromChannels, h]

/-- Settles O54, by the first field that does not end inside the prefix: the type of an empty one,
the index of one byte, the rate of two to four. -/
theorem truncation : Obligations.Truncation := by
  intro B r k h hk
  obtain ⟨htype, hindex⟩ := decodeAsc_ok_iff.1 h
  rcases Nat.eq_zero_or_pos k with rfl | hpos
  · exact ascFromType_of_none (readField_take_of_lt B (by decide) (by decide))
  rw [decodeAsc_of_type ((readField_take_of_le B (by omega)).trans htype)]
  rcases Nat.lt_or_ge k 2 with h2 | h2
  · exact ascFromIndex_of_none (readField_take_of_lt B (by decide) (by omega))
  have hmark : readField B 5 4 = some 15 := by
    by_contra hne
    rw [if_neg hne] at hk
    omega
  rw [if_pos hmark] at hk
  rw [ascFromIndex_of_marker ((readField_take_of_le B (by omega)).trans hmark)]
  exact ascFromRate_of_none (readField_take_of_lt B (by decide) (by omega))

theorem ascFromChannels_take (B : List Byte) {k p : Nat} (rate : Rate) (h : p + 4 ≤ 8 * k) :
    ascFromChannels (B.take k) p rate = ascFromChannels B p rate := by
  rw [ascFromChannels, readField_take_of_le B h, ascFromChannels]

theorem ascFromRate_take (B : List Byte) {k p : Nat} (h : p + 28 ≤ 8 * k) :
    ascFromRate (B.take k) p = ascFromRate B p := by
  rw [ascFromRate, readField_take_of_le B (by omega), ascFromRate]
  split
  next => rfl
  next => exact ascFromChannels_take B _ h

theorem ascFromIndex_take (B : List Byte) {k p : Nat} (h : p + 32 ≤ 8 * k) :
    ascFromIndex (B.take k) p = ascFromIndex B p := by
  rw [ascFromIndex, readField_take_of_le B (by omega), ascFromIndex]
  split
  next => rfl
  next => rw [ascFromRate_take B h, ascFromChannels_take B _ (by omega)]

theorem ascFromExt_take (B : List Byte) {k p : Nat} (h : p + 6 ≤ 8 * k) :
    ascFromExt (B.take k) p = ascFromExt B p := by
  rw [ascFromExt, readField_take_of_le B h, ascFromExt]
  split
  next => rfl
  next =>
    have htype : ∀ ext, 32 + ext ≠ 2 := by omega
    simp only [ascCheckType, if_pos (htype _)]

/-- Settles O55: every field a decode reads ends at bit 37 or before, inside five bytes. -/
theorem firstFiveBytes : Obligations.FirstFiveBytes := by
  intro B
  rw [decodeAsc, decodeAsc, ascFromType, ascFromType, readField_take_of_le B (by decide)]
  split
  next => rfl
  next => rw [ascFromExt_take B (by decide), ascCheckType, ascCheckType,
    ascFromIndex_take B (by decide)]

end Sys2Proof.Laws

/-! PROOF. The schedule agrees with the function (41_config_decoder.md section 3): a step of the
host or the decoder keeps the result a decode is heading for, and each decoder step brings it one step
nearer. -/

namespace Sys2Proof.Laws

open Sys2Proof.Machine Sys2Proof.Safety

/-- How many decoder steps the explicit rate at position `p` leaves (41_config_decoder.md R171). -/
def stepsFromRate (B : List Byte) (p : Nat) : Nat :=
  match readField B p 24 with
  | none => 1
  | some _ => 2

/-- How many decoder steps the index at position `p` leaves. -/
def stepsFromIndex (B : List Byte) (p : Nat) : Nat :=
  match readField B p 4 with
  | none => 1
  | some f => if f = 13 ∨ f = 14 then 1 else if f = 15 then stepsFromRate B (p + 4) + 1 else 2

/-- How many decoder steps the type at position `p` leaves. -/
def stepsFromType (B : List Byte) (p : Nat) : Nat :=
  match readField B p 5 with
  | none => 1
  | some a => if a = 31 then 2 else if a = 2 then stepsFromIndex B (p + 5) + 1 else 1

/-- How many decoder steps are left at state code `st` and position `p`, beside what `ascFrom` says
is left to reach. -/
def stepsLeft (B : List Byte) (st : BitVec 3) (p : Nat) : Nat :=
  match st.toNat with
  | 1 => stepsFromType B p
  | 3 => stepsFromIndex B p
  | 4 => stepsFromRate B p
  | _ => 1

theorem stepsFromRate_of_none {B : List Byte} {p : Nat} (h : readField B p 24 = none) :
    stepsFromRate B p = 1 := by
  rw [stepsFromRate, h]

theorem stepsFromIndex_of_none {B : List Byte} {p : Nat} (h : readField B p 4 = none) :
    stepsFromIndex B p = 1 := by
  rw [stepsFromIndex, h]

theorem stepsFromType_of_none {B : List Byte} {p : Nat} (h : readField B p 5 = none) :
    stepsFromType B p = 1 := by
  rw [stepsFromType, h]

theorem stepsFromRate_bounds (B : List Byte) (p : Nat) :
    1 ≤ stepsFromRate B p ∧ stepsFromRate B p ≤ 2 := by
  unfold stepsFromRate
  split <;> decide

theorem stepsFromIndex_bounds (B : List Byte) (p : Nat) :
    1 ≤ stepsFromIndex B p ∧ stepsFromIndex B p ≤ 3 := by
  have hrate := stepsFromRate_bounds B (p + 4)
  unfold stepsFromIndex
  split
  next => decide
  next => split_ifs <;> omega

theorem stepsFromType_bounds (B : List Byte) (p : Nat) :
    1 ≤ stepsFromType B p ∧ stepsFromType B p ≤ 4 := by
  have hindex := stepsFromIndex_bounds B (p + 5)
  unfold stepsFromType
  split
  next => decide
  next => split_ifs <;> omega

theorem one_le_stepsLeft (B : List Byte) (st : BitVec 3) (p : Nat) : 1 ≤ stepsLeft B st p := by
  unfold stepsLeft
  split
  · exact (stepsFromType_bounds B p).1
  · exact (stepsFromIndex_bounds B p).1
  · exact (stepsFromRate_bounds B p).1
  · exact le_rfl

/-- From the first step on the count is the spec's. -/
theorem stepsFromType_eq_ascSteps (B : List Byte) : stepsFromType B 0 = ascSteps B := by
  unfold stepsFromType ascSteps stepsFromIndex stepsFromRate
  cases readField B 0 5 with
  | none => rfl
  | some a =>
    by_cases h31 : a = 31
    · simp [h31]
    by_cases h2 : a = 2
    · subst h2
      cases readField B 5 4 with
      | none => simp
      | some f =>
        by_cases hrsv : f = 13 ∨ f = 14
        · simp [hrsv]
        · by_cases h15 : f = 15
          · cases readField B 9 24 <;> simp [h15]
          · simp [hrsv, h15]
    · simp [h31, h2]

/-- A decoder step of a decode heading for `r` with `d` decoder steps left comes to `t`: this was
the last step and `t` shows `r`, or `t` is heading for `r` with one step fewer left. -/
def Advances (B : List Byte) (r : AscResult) (d : Nat) (t : State) : Prop :=
  (t.state = Fsm.idle ∧ hostResult t = some r ∧ d = 1) ∨
  (ascFrom B t.state t.pos.toNat t.lRate = some r ∧ d = stepsLeft B t.state t.pos.toNat + 1)

theorem hostResult_finishErr (k : ErrKind) (v : BitVec 7) (s : State) :
    hostResult (finishErr k v s) = some (.err k v) := by
  cases k <;> rfl

theorem advances_finishErr (B : List Byte) (k : ErrKind) (v : BitVec 7) (s : State) :
    Advances B (.err k v) 1 (finishErr k v s) := .inl ⟨rfl, hostResult_finishErr k v s, rfl⟩

theorem onBaseType_advances {B : List Byte} {v : BitVec 5} {s t : State}
    (hread : readField B 0 5 = some v.toNat) (hpos : s.pos = 5#6) (h : onBaseType v s = .next t) :
    Advances B (ascFromType B 0) (stepsFromType B 0) t := by
  rcases onBaseType_cases v s with ⟨rfl, e⟩ | ⟨rfl, e⟩ | ⟨h2, h31, e⟩ <;> rw [e] at h <;> cases h
  · rw [ascFromType, stepsFromType, hread]
    refine .inr ?_
    rw [goto_state, goto_pos, hpos]
    exact ⟨rfl, rfl⟩
  · rw [ascFromType, stepsFromType, hread]
    refine .inr ?_
    rw [goto_state, goto_pos, hpos]
    exact ⟨rfl, rfl⟩
  · have hne2 : v.toNat ≠ 2 := fun hv => h2 (BitVec.eq_of_toNat_eq hv)
    have hne31 : v.toNat ≠ 31 := fun hv => h31 (BitVec.eq_of_toNat_eq hv)
    simp only [ascFromType, stepsFromType, hread, ascCheckType, if_neg hne2, if_neg hne31,
      if_pos hne2, BitVec.ofNat_toNat]
    exact advances_finishErr B _ _ s

theorem onExt_advances {B : List Byte} {p : Nat} {v : BitVec 6} {s t : State}
    (hread : readField B p 6 = some v.toNat) (h : onExt v s = .next t) :
    Advances B (ascFromExt B p) 1 t := by
  have hne2 : 32 + v.toNat ≠ 2 := by omega
  rw [onExt_eq, extendedType_eq_ofNat] at h
  cases h
  simp only [ascFromExt, hread, ascCheckType, if_pos hne2]
  exact advances_finishErr B _ _ s

theorem onFreqIdx_advances {B : List Byte} {v : BitVec 4} {s t : State}
    (hread : readField B 5 4 = some v.toNat) (hpos : s.pos = 9#6) (h : onFreqIdx v s = .next t) :
    Advances B (ascFromIndex B 5) (stepsFromIndex B 5) t := by
  rcases onFreqIdx_cases v s with ⟨h12, e⟩ | ⟨hrsv, e⟩ | ⟨rfl, e⟩ <;> rw [e] at h <;> cases h
  · have hne15 : v.toNat ≠ 15 := by omega
    have hnrsv : ¬ (v.toNat = 13 ∨ v.toNat = 14) := by omega
    simp only [ascFromIndex, stepsFromIndex, hread, if_neg hne15, if_neg hnrsv]
    refine .inr ?_
    rw [goto_state, goto_pos, goto_lRate, latchRate_pos, latchRate_lRate, hpos]
    exact ⟨rfl, rfl⟩
  · have hval : v.toNat = 13 ∨ v.toNat = 14 :=
      hrsv.imp (congrArg BitVec.toNat) (congrArg BitVec.toNat)
    have hne15 : v.toNat ≠ 15 := by omega
    simp only [ascFromIndex, stepsFromIndex, hread, if_neg hne15, if_pos hval, BitVec.ofNat_toNat]
    exact advances_finishErr B _ _ s
  · rw [ascFromIndex, stepsFromIndex, hread]
    refine .inr ?_
    rw [goto_state, goto_pos, hpos]
    exact ⟨rfl, rfl⟩

theorem onRate_advances {B : List Byte} {v : Rate} {s t : State}
    (hread : readField B 9 24 = some v.toNat) (hpos : s.pos = 33#6) (h : onRate v s = .next t) :
    Advances B (ascFromRate B 9) (stepsFromRate B 9) t := by
  cases h
  simp only [ascFromRate, stepsFromRate, hread, BitVec.ofNat_toNat, BitVec.setWidth_eq]
  refine .inr ?_
  rw [goto_state, goto_pos, goto_lRate, latchRate_pos, latchRate_lRate, hpos]
  exact ⟨rfl, rfl⟩

theorem onChanCfg_advances {B : List Byte} {p : Nat} {v : BitVec 4} {s t : State}
    (hread : readField B p 4 = some v.toNat) (h : onChanCfg v s = .next t) :
    Advances B (ascFromChannels B p s.lRate) 1 t := by
  rcases onChanCfg_cases v s with ⟨rfl, e⟩ | ⟨h1, h7, e⟩ | ⟨h8, e⟩ <;> rw [e] at h <;> cases h
  · rw [ascFromChannels, hread]
    exact advances_finishErr B _ _ s
  · have hne0 : v.toNat ≠ 0 := by omega
    have hlt8 : ¬ 8 ≤ v.toNat := by omega
    rw [ascFromChannels, hread]
    simp only [if_neg hne0, if_neg hlt8, ← channelCount_eq_ofNat]
    exact .inl ⟨rfl, rfl, rfl⟩
  · have hne0 : v.toNat ≠ 0 := by omega
    rw [ascFromChannels, hread]
    simp only [if_neg hne0, if_pos h8, BitVec.ofNat_toNat]
    exact advances_finishErr B _ _ s

/-- A field that is not in the block's input is not in `B`. -/
theorem readField_of_endOfInput {B : List Byte} {n : Nat} {s : State} (hold : holdsInput s B)
    (hn : 1 ≤ n) (hend : endOfInput n s) : readField B s.pos.toNat n = none := by
  rw [endOfInput] at hend
  refine if_pos ?_
  rw [hold.1]
  omega

/-- A field inside the first five bytes has in `B` the value the block reads. -/
theorem readField_of_canRead {B : List Byte} {n : Nat} {s : State} (hold : holdsInput s B)
    (hn : 1 ≤ n) (hcan : canRead n s) (h40 : s.pos.toNat + n ≤ 40) :
    readField B s.pos.toNat n = some (nextBits n s) := by
  obtain ⟨hlen, hbytes⟩ := hold
  obtain ⟨hbits, -, -⟩ := hcan
  have hin : ¬ 8 * B.length - s.pos.toNat < n := by
    rw [hlen]
    omega
  rw [readField, if_neg hin, nextBits, fieldValue_congr _ s.ibuf.read]
  intro i _ hi
  exact (hbytes i (by rw [hlen]; omega)).symm

/-- A decoder step advances if its field's action does on the value `B` has there; without the field
the decode ends at the end of the input. -/
theorem withField_advances {B : List Byte} {r : AscResult} {d n : Nat}
    {k : BitVec n → State → Out} {s t : State} {p q : BitVec 6} (hn : 1 ≤ n) (hs : InProgress s)
    (hold : holdsInput s B) (hpos : s.pos = p) (hq : q.toNat = p.toNat + n) (h37 : q.toNat ≤ 37)
    (hend : readField B p.toNat n = none → r = ascEndOfInput ∧ d = 1)
    (hk : ∀ (v : BitVec n) u, readField B p.toNat n = some v.toNat → u.pos = q →
      u.lRate = s.lRate → k v u = .next t → Advances B r d t)
    (h : withField n k s = .next t) : Advances B r d t := by
  subst hpos
  rw [hq] at h37
  rcases hs.endOfInput_or_canRead h37 with hshort | hcan
  · obtain ⟨rfl, rfl⟩ := hend (readField_of_endOfInput hold hn hshort)
    rw [withField_of_endOfInput n k s hshort hn] at h
    cases h
    exact advances_finishErr B _ _ s
  · obtain ⟨v, hv⟩ := exists_field n s
    rw [withField_of_field k hn hv hcan] at h
    have hread : readField B s.pos.toNat n = some v.toNat := by
      rw [← hv]
      exact readField_of_canRead hold hn hcan (by omega)
    have hposu : (afterRead n s).pos = q :=
      BitVec.eq_of_toNat_eq (by rw [afterRead_pos_toNat hcan, hq])
    exact hk v (afterRead n s) hread hposu rfl h

/-- The row of the code in `STATE` advances the decode. -/
theorem exec_decodeFsm_advances {B : List Byte} {r : AscResult} {s t : State} {i : Instr}
    (h : BlockInv s) (hold : holdsInput s B)
    (hr : ascFrom B s.state s.pos.toNat s.lRate = some r) (hi : decodeFsm s.state = .ok i)
    (hexec : exec i s = .next t) : Advances B r (stepsLeft B s.state s.pos.toNat) t := by
  obtain ⟨haot, hext, hsfi, hrate, hcc, -⟩ := h.cursor
  have hgo : s.state ≠ Fsm.idle → InProgress s := inProgress_of_busy h
  rcases decodeFsm_cases h.stateCode with
    ⟨hs, e⟩ | ⟨hs, e⟩ | ⟨hs, e⟩ | ⟨hs, e⟩ | ⟨hs, e⟩ | ⟨hs, e⟩ <;>
    obtain rfl := Except.ok.inj (e.symm.trans hi) <;> rw [hs] at hgo hr ⊢
  · cases hr
  · rw [haot hs] at hr ⊢
    cases hr
    exact withField_advances (by decide) (hgo (by decide)) hold (haot hs) (q := 5#6) rfl
      (by decide) (fun hnone => ⟨ascFromType_of_none hnone, stepsFromType_of_none hnone⟩)
      (fun v u hread hpos _ => onBaseType_advances hread hpos) hexec
  · rw [hext hs] at hr ⊢
    cases hr
    exact withField_advances (k := onExt) (by decide) (hgo (by decide)) hold (hext hs) (q := 11#6)
      rfl (by decide) (fun hnone => ⟨ascFromExt_of_none hnone, rfl⟩)
      (fun v u hread _ _ => onExt_advances hread) hexec
  · rw [hsfi hs] at hr ⊢
    cases hr
    exact withField_advances (by decide) (hgo (by decide)) hold (hsfi hs) (q := 9#6) rfl
      (by decide) (fun hnone => ⟨ascFromIndex_of_none hnone, stepsFromIndex_of_none hnone⟩)
      (fun v u hread hpos _ => onFreqIdx_advances hread hpos) hexec
  · rw [hrate hs] at hr ⊢
    cases hr
    exact withField_advances (by decide) (hgo (by decide)) hold (hrate hs) (q := 33#6) rfl
      (by decide) (fun hnone => ⟨ascFromRate_of_none hnone, stepsFromRate_of_none hnone⟩)
      (fun v u hread hpos _ => onRate_advances hread hpos) hexec
  · obtain ⟨q, hq, h37⟩ : ∃ q : BitVec 6, q.toNat = s.pos.toNat + 4 ∧ q.toNat ≤ 37 := by
      rcases hcc hs with hpos | hpos
      · exact ⟨13#6, by rw [hpos]; rfl, by decide⟩
      · exact ⟨37#6, by rw [hpos]; rfl, by decide⟩
    cases hr
    exact withField_advances (by decide) (hgo (by decide)) hold rfl hq h37
      (fun hnone => ⟨ascFromChannels_of_none hnone, rfl⟩)
      (fun v u hread _ hlRate hstep => hlRate ▸ onChanCfg_advances hread hstep) hexec

/-- A decoder turn advances the decode. -/
theorem decoderStep_advances {B : List Byte} {r : AscResult} {s t : State} (h : BlockInv s)
    (hold : holdsInput s B) (hr : ascFrom B s.state s.pos.toNat s.lRate = some r)
    (ht : decoderTurn s) (hstep : step s = .next t) :
    Advances B r (stepsLeft B s.state s.pos.toNat) t := by
  have hc := legalCodes_of_blockInv h
  rcases decodeFsm_cases hc.1 with ⟨-, hi⟩ | ⟨-, hi⟩ | ⟨-, hi⟩ | ⟨-, hi⟩ | ⟨-, hi⟩ | ⟨-, hi⟩ <;>
  · rw [step_of_decoderTurn hc ht hi] at hstep
    exact exec_decodeFsm_advances (s := s.popTurn) (blockInv_popTurn h) hold hr hi hstep

/-- A decoder turn takes its turn. -/
theorem decoderStep_turns {s t : State} (ht : decoderTurn s) (hstep : step s = .next t) :
    t.turns = s.turns.tail := by
  rcases decoderStep_cases ht hstep with ⟨-, rfl⟩ | ⟨-, p, heffect⟩
  · rfl
  · cases heffect <;> rfl

/-- With a result left to reach the block is busy. -/
theorem busy_of_ascFrom {B : List Byte} {st : BitVec 3} {p : Nat} {rate : Rate} {r : AscResult}
    (h : ascFrom B st p rate = some r) : st ≠ Fsm.idle := by
  rintro rfl
  cases h

/-- While busy a host turn passes: nothing changes but the turns and the host's answer. -/
theorem hostStep_of_busy {s t : State} {w : HostAcc} {ts : List Turn} (hs : s.state ≠ Fsm.idle)
    (ht : s.turns = .host w :: ts) (hstep : step s = .next t) :
    t = { s with turns := ts, hostRead := t.hostRead } := by
  obtain ⟨u, hu, heffect⟩ := step_of_host_effect (legalCodes_of_step_next hstep) ht
  obtain rfl := Host.Outcome.next.inj (hu.symm.trans hstep)
  exact heffect.of_busy hs

/-- Settles O57: a host turn passes while busy, a decoder turn advances the decode and leaves the
input. -/
theorem stepRefinesDecode : Obligations.StepRefinesDecode := by
  intro s t B r h hno hold hr hstep
  rcases turn_cases s with ⟨ts, ht⟩ | ⟨w, ts, ht⟩ | ht
  · exact absurd ht (hno ts)
  · rw [hostStep_of_busy (busy_of_ascFrom hr) ht hstep]
    exact ⟨hold, .inl hr⟩
  · obtain ⟨hilen, hibuf⟩ := decoderNeverWritesInput.1 s t ht hstep
    refine ⟨by rw [holdsInput, hilen, hibuf]; exact hold, ?_⟩
    rcases decoderStep_advances h hold hr ht hstep with ⟨hidle, hshown, -⟩ | ⟨hnext, -⟩
    · exact .inr ⟨hidle, hshown⟩
    · exact .inl hnext

end Sys2Proof.Laws

/-! PROOF. A whole decode under any turns of host and decoder (41_config_decoder.md section 3), by
induction on the turns. -/

namespace Sys2Proof.Laws

open Sys2Proof.Machine Sys2Proof.Safety

/-- From `s` the machine comes to `IDLE` for the first time after `k` steps, `d` of them the
decoder's, in `t`, which meets the invariant and shows `r`. -/
structure ComesToShow (r : AscResult) (d k : Nat) (s t : State) : Prop where
  within : k ≤ s.turns.length
  run : Host.Core.run core k s = .next t
  inv : BlockInv t
  rest : t.turns = s.turns.drop k
  idle : t.state = Fsm.idle
  shown : hostResult t = some r
  steps : (s.turns.take k).count Turn.decoder = d
  busyBefore : ∀ j u, j < k → Host.Core.run core j s = .next u → u.state ≠ Fsm.idle

theorem run_succ_of_step {s u : State} (k : Nat) (h : step s = .next u) :
    Host.Core.run core (k + 1) s = Host.Core.run core k u := by
  have hcore : core.step s = .next u := h
  simp only [Host.Core.run, hcore]

/-- An idle state that shows `r` has come there. -/
theorem comesToShow_of_idle {r : AscResult} {t : State} (h : BlockInv t)
    (hidle : t.state = Fsm.idle) (hshown : hostResult t = some r) : ComesToShow r 0 0 t t where
  within := Nat.zero_le _
  run := rfl
  inv := h
  rest := rfl
  idle := hidle
  shown := hshown
  steps := rfl
  busyBefore := fun _ _ hj => absurd hj (Nat.not_lt_zero _)

/-- A step from a busy state comes before the steps from the next one. -/
theorem ComesToShow.cons {r : AscResult} {d k : Nat} {a : Turn} {s u t : State}
    (h : ComesToShow r d k u t) (hstep : step s = .next u) (hturns : s.turns = a :: u.turns)
    (hbusy : s.state ≠ Fsm.idle) :
    ComesToShow r (d + if a = .decoder then 1 else 0) (k + 1) s t where
  within := by
    rw [hturns]
    exact Nat.succ_le_succ h.within
  run := (run_succ_of_step k hstep).trans h.run
  inv := h.inv
  rest := by rw [hturns, List.drop_succ_cons, h.rest]
  idle := h.idle
  shown := h.shown
  steps := by
    rw [hturns, List.take_succ_cons, List.count_cons, h.steps]
    simp
  busyBefore := fun j v hj hrun => by
    cases j with
    | zero =>
      cases hrun
      exact hbusy
    | succ j =>
      rw [run_succ_of_step j hstep] at hrun
      exact h.busyBefore j v (Nat.lt_of_succ_lt_succ hj) hrun

/-- With turns of host and decoder that give the decoder the steps that are left, the decode comes
to show its result after exactly those. -/
theorem exists_comesToShow {B : List Byte} {r : AscResult} :
    ∀ (ts : List Turn) (s : State), s.turns = ts → BlockInv s → holdsInput s B →
      ascFrom B s.state s.pos.toNat s.lRate = some r → (∀ a ∈ ts, a ≠ Turn.rst) →
      stepsLeft B s.state s.pos.toNat ≤ ts.count Turn.decoder →
      ∃ k t, ComesToShow r (stepsLeft B s.state s.pos.toNat) k s t := by
  intro ts
  induction ts with
  | nil =>
    intro s _ _ _ _ _ hsteps
    exact absurd ((one_le_stepsLeft B _ _).trans hsteps) (by simp)
  | cons a ts ih =>
    intro s hturns h hold hr hno hsteps
    obtain ⟨u, hstep, hinv⟩ := step_stepsInInv h
    have hbusy := busy_of_ascFrom hr
    have hnots : ∀ a ∈ ts, a ≠ Turn.rst := fun b hb => hno b (List.mem_cons_of_mem a hb)
    cases a with
    | rst => exact absurd rfl (hno .rst List.mem_cons_self)
    | host w =>
      have hpass := hostStep_of_busy hbusy hturns hstep
      have husteps : stepsLeft B u.state u.pos.toNat = stepsLeft B s.state s.pos.toNat := by
        rw [hpass]
      have huturns : u.turns = ts := by rw [hpass]
      obtain ⟨k, t, hshow⟩ := ih u huturns hinv (by rw [hpass]; exact hold)
        (by rw [hpass]; exact hr) hnots (by rw [husteps]; simpa using hsteps)
      rw [husteps] at hshow
      have hall := hshow.cons (a := .host w) hstep (by rw [hturns, huturns]) hbusy
      exact ⟨k + 1, t, by simpa using hall⟩
    | decoder =>
      have hturn : decoderTurn s := .inr ⟨ts, hturns⟩
      have huturns : u.turns = ts := by rw [decoderStep_turns hturn hstep, hturns, List.tail_cons]
      have hcons : s.turns = .decoder :: u.turns := by rw [hturns, huturns]
      rcases decoderStep_advances h hold hr hturn hstep with ⟨hidle, hshown, hd⟩ | ⟨hur, hd⟩
      · rw [hd]
        exact ⟨1, u, (comesToShow_of_idle hinv hidle hshown).cons hstep hcons hbusy⟩
      · obtain ⟨hilen, hibuf⟩ := decoderNeverWritesInput.1 s u hturn hstep
        rw [hd, List.count_cons_self] at hsteps
        obtain ⟨k, t, hshow⟩ := ih u huturns hinv (by rw [holdsInput, hilen, hibuf]; exact hold) hur
          hnots (Nat.le_of_succ_le_succ hsteps)
        rw [hd]
        exact ⟨k + 1, t, hshow.cons hstep hcons hbusy⟩

/-- Settles O58: at `S_AOT` the whole of the function is left to reach, in the spec's number of
decoder steps, which four turns suffice for. -/
theorem decodeCompletes : Obligations.DecodeCompletes := by
  intro s B h hs hold hno hturns
  have hpos : s.pos = 0#6 := h.cursor.1 hs
  have hr : ascFrom B s.state s.pos.toNat s.lRate = some (decodeAsc B) := by
    rw [hs, hpos]
    rfl
  have hsteps : stepsLeft B s.state s.pos.toNat = ascSteps B := by
    rw [hs, hpos]
    exact stepsFromType_eq_ascSteps B
  have hbounds : 1 ≤ ascSteps B ∧ ascSteps B ≤ 4 := by
    rw [← stepsFromType_eq_ascSteps]
    exact stepsFromType_bounds B 0
  obtain ⟨k, t, hshow⟩ := exists_comesToShow s.turns s rfl h hold hr hno
    (by rw [hsteps]; exact hbounds.2.trans hturns)
  rw [hsteps] at hshow
  exact ⟨k, t, hshow.within, hshow.run, hshow.inv, hshow.rest, hshow.idle, hshow.shown, hshow.steps,
    hbounds.1, hbounds.2, hshow.busyBefore⟩

end Sys2Proof.Laws
